-- ==== Sys2Proof/Word.lean ====
section
/-! DEFINITION. The byte and the text of FCST (R7, R31): every stream and RXBUF are made of 8-bit bytes. -/

namespace Sys2Proof

/-- R7: "A byte is an unsigned integer 0..255"; a bit vector, because the checksum wraps modulo 256. -/
abbrev Byte := BitVec 8

/-- Port names, messages, hexadecimal digits (R13, R15, R108). -/
abbrev Text := String

end Sys2Proof
end

