-- ==== Sys2Proof/Syntax.lean ====
section
/-! DEFINITION. The value types that cross the block's ports (R20 to R22) and the instructions: one constructor per row of spec/opcode_table.json. -/

namespace Sys2Proof

/-- R53: the three frame types. -/
inductive FrameType where
  | command
  | response
  | notice
  deriving DecidableEq, Repr, Inhabited

/-- The bytes of one frame that its fixed bytes and its length do not determine (R50): type, command, parameters and the
checksum byte as it stands on the wire. -/
structure Wire where
  frameType : FrameType
  command : Byte
  parameters : List Byte
  checksum : Byte
  deriving DecidableEq, Repr

/-- R20: a decoded protocol unit; `checksumValid` is fixed when the Frame is built (R101), the other derived fields are
computed from it (Machine/Flags.lean). -/
structure Frame where
  frameType : FrameType
  command : Byte
  parameters : List Byte
  rawBytes : Option (List Byte)
  checksumValid : Bool
  deriving DecidableEq, Repr

/-- R21: a tag observation; `pc` is the tag's protocol-control word (R9), `epcBytes` has 12 bytes in every one the block
makes (Sys2Proof.wellFormed, R107). -/
structure TagPollData where
  rssi : Byte
  pc : BitVec 16
  epcBytes : List Byte
  deriving DecidableEq, Repr, Inhabited

/-- The instructions: the rows of spec/opcode_table.json in the table's order. `k` is the checksum byte on the wire. -/
inductive Instr where
  -- frames (R50 to R67)
  | frameCommand (command : Byte) (parameters : List Byte) (k : Byte)
  | frameResponse (command : Byte) (parameters : List Byte) (k : Byte)
  | frameNotice (command : Byte) (parameters : List Byte) (k : Byte)
  | cmdSinglePoll (k : Byte)
  | cmdStartPoll (parameters : List Byte) (k : Byte)
  | cmdStopPoll (k : Byte)
  | cmdWriteEpc (password : List Byte) (bank : Byte) (address : BitVec 16) (words : BitVec 16) (epc : List Byte) (k : Byte)
  | cmdLockTag (password : List Byte) (payload : List Byte) (k : Byte)
  | cmdSetRfPower (parameters : List Byte) (k : Byte)
  | cmdGetRfPower (k : Byte)
  | noticeTagPoll (rssi : Byte) (pc : BitVec 16) (epc : List Byte) (later : List Byte) (k : Byte)
  | responseSuccess (command : Byte) (later : List Byte) (k : Byte)
  -- codec, encode side (R80 to R90)
  | checksum (t : Byte) (c : Byte) (p : List Byte)
  | encodeFrame (t : FrameType) (c : Byte) (p : List Byte)
  | buildCommand (command : Byte) (parameters : List Byte)
  | buildSinglePoll
  | buildStartPoll (count : Int)
  | buildStopPoll
  | buildWriteEpc (password : List Byte) (epc : List Byte)
  | buildLockTag (password : List Byte) (payload : List Byte)
  | buildSetRfPower (value : Int)
  | buildGetRfPower
  -- codec, decode side (R100 to R110)
  | parseFrame (bytes : List Byte)
  | frameChecksumValid (frame : Frame)
  | frameIsSuccess (frame : Frame)
  | frameResponseCode (frame : Frame)
  | findFrameEnd (buffer : List Byte)
  | extractFrame (buffer : List Byte)
  | rxPush (chunk : List Byte)
  | parseTagPollData (frame : Frame)
  | epcHex (tag : TagPollData)
  | isReaderTag (tag : TagPollData)
  | responseMessage (code : Byte)
  -- serial transport (R131 to R134)
  | connect (port : Text) (baud : Nat)
  | disconnect
  | write (bytes : List Byte)
  -- environment events (R135, R136, R220)
  | envRxChunk (bytes : List Byte)
  | envHwError (msg : Text)
  | reset
  -- host operations (R163 to R171)
  | hostStartPolling
  | hostStopPolling
  | hostSetRfPower (value : Int)
  | hostGetRfPower
  | hostWriteEpc (epc : List Byte)
  | hostLockTag (password : List Byte) (payload : List Byte)
  | hostVerifyEpc (expected : List Byte) (timeout : Nat)
  | hostSinglePoll
  deriving DecidableEq, Repr

end Sys2Proof
end

