-- ==== Sys2Proof/Config.lean ====
section
/-! DEFINITION. The configuration record `cfg` of R6 as plain data, the reference configuration REFCFG, and the free values
of the model: opaque constants without a body, of which no proof can use a value. -/

namespace Sys2Proof

/-- One byte of a parameter layout that depends on a number n: a constant, or the high or low byte of `scale * n` (R7, R33). -/
inductive LayoutByte where
  | const (b : Byte)
  | hi (scale : Nat)
  | lo (scale : Nat)
  deriving DecidableEq, Repr

/-- A parameter function of R6 (number to bytes) as plain data: `listed` gives its value at the numbers it lists, `layout` at
all others. Every function on a finite range has such a form (Machine/Operands.lean, `applyParamFn`). -/
structure ParamFn where
  listed : List (Nat × List Byte)
  layout : List LayoutByte
  deriving DecidableEq, Repr

/-- R6 `EN_LINE`: the serial control line that drives the module-enable line. -/
inductive ControlLine where
  | dtr
  | rts
  deriving DecidableEq, Repr, Inhabited

/-- R6 `EN_ACTIVE_LEVEL`: an electrical level. -/
inductive PinLevel where
  | low
  | high
  deriving DecidableEq, Repr, Inhabited

/-- R6 `RESYNC_POLICY` (R106, D17). -/
inductive ResyncPolicy where
  | dropSpan
  | dropHeaderByte
  deriving DecidableEq, Repr, Inhabited

/-- R6 `HWERR_EN_POLICY` (R136, D28). -/
inductive HwerrEnPolicy where
  | deassert
  | keep
  | any
  deriving DecidableEq, Repr, Inhabited

/-- R6: the parameters of the model. `baudSet`, the control line, its level and the three durations enter no rule of the
block (R140, R17, R231). -/
structure Config where
  cmdSinglePoll : Byte
  cmdStartPoll : Byte
  cmdStopPoll : Byte
  cmdWriteEpc : Byte
  cmdLockTag : Byte
  cmdSetRfPower : Byte
  cmdGetRfPower : Byte
  cmdPollNotice : Byte
  rcInvalidCommand : Byte
  rcInvalidParameter : Byte
  rcMemoryOverrun : Byte
  rcMemoryLocked : Byte
  rcTagNotFound : Byte
  rcReadFailed : Byte
  rcWriteFailed : Byte
  rcLockFailed : Byte
  vendorPrefix0 : Byte
  vendorPrefix1 : Byte
  startPollParams : ParamFn
  membankEpc : Byte
  writeStartAddr : BitVec 16
  powerEncode : ParamFn
  baudSet : List Nat
  enLine : ControlLine
  enActiveLevel : PinLevel
  settleDelayMs : Nat
  disconnectDelayMs : Nat
  writeTimeoutMs : Nat
  rxbufCap : Option Nat
  resyncPolicy : ResyncPolicy
  hwerrEnPolicy : HwerrEnPolicy
  deriving DecidableEq, Repr

/-- R110: the labels of the nine specific response messages. -/
inductive ResponseLabel where
  | success
  | invalidCommand
  | invalidParameter
  | memoryOverrun
  | memoryLocked
  | tagNotFound
  | readFailed
  | writeFailed
  | lockFailed
  deriving DecidableEq, Repr

/-- R191: which argument an ArgumentError is about. -/
inductive ArgumentName where
  | parameters
  | count
  | password
  | epc
  | lockPayload
  | rfPower
  deriving DecidableEq, Repr

/-- U17: an answer of the environment; a failing `port_write` also says how many bytes it sent (R134, U13). -/
inductive EnvAnswer where
  | ok
  | fail (msg : Text) (sent : Nat)
  deriving DecidableEq, Repr, Inhabited

/-- U9: the text of an ArgumentError, any value; the argument is a fresh number of State.draws. -/
opaque Config.freeArgumentText : Nat → Text

/-- U7: CONN.port_name on entry to Error and after a disconnect, any value. -/
opaque Config.freePortName : Nat → Option Text

/-- U7: CONN.baud_rate on entry to Error and after a disconnect, any value. -/
opaque Config.freeBaudRate : Nat → Option Nat

/-- U6: EN and PORT_OPEN after a hardware error under the policy `any`, any value. -/
opaque Config.freeBit : Nat → Bool

/-- R80 states the checksum for at most 65535 parameter bytes; beyond, any value. -/
opaque Config.freeChecksum : Nat → Byte

/-- U17: the environment's answer when State.answers holds none, any value. -/
opaque Config.freeAnswer : Nat → EnvAnswer

/-- N14: where the power stands in a get-RF-power Response is not in the source; any function of its parameters. -/
opaque Config.powerOfResponse : List Byte → Int

/-- N15: what tag reads a single-poll Response with more than the success code carries is not in the source. -/
opaque Config.singlePollTags : List Byte → List TagPollData

/-- U10: the wording of the nine specific response messages. -/
opaque Config.labelText : ResponseLabel → Text

/-- U2: the eight error response codes, open in REFCFG. -/
opaque Config.openResponseCode : ResponseLabel → Byte

/-- U21: the control line of the module-enable line, open in REFCFG. -/
opaque Config.openEnLine : ControlLine

/-- U21: the level that means asserted, open in REFCFG. -/
opaque Config.openEnActiveLevel : PinLevel

/-- U19: DISCONNECT_DELAY, open in REFCFG. -/
opaque Config.openDisconnectDelayMs : Nat

/-- U19: WRITE_TIMEOUT, open in REFCFG. -/
opaque Config.openWriteTimeoutMs : Nat

/-- R6, column "reference": REFCFG. PRESUMED (log 1): most values are from general knowledge (G1 to G5) or arbitrary, and
what REFCFG leaves open is an opaque constant. -/
def Config.reference : Config where
  cmdSinglePoll := 0x22
  cmdStartPoll := 0x27
  cmdStopPoll := 0x28
  cmdWriteEpc := 0x49
  cmdLockTag := 0x82
  cmdSetRfPower := 0xB6
  cmdGetRfPower := 0xB7
  cmdPollNotice := 0x27
  rcInvalidCommand := Config.openResponseCode .invalidCommand
  rcInvalidParameter := Config.openResponseCode .invalidParameter
  rcMemoryOverrun := Config.openResponseCode .memoryOverrun
  rcMemoryLocked := Config.openResponseCode .memoryLocked
  rcTagNotFound := Config.openResponseCode .tagNotFound
  rcReadFailed := Config.openResponseCode .readFailed
  rcWriteFailed := Config.openResponseCode .writeFailed
  rcLockFailed := Config.openResponseCode .lockFailed
  vendorPrefix0 := 0x53
  vendorPrefix1 := 0x56
  startPollParams := { listed := [], layout := [.const 0x22, .hi 1, .lo 1] }
  membankEpc := 0x01
  writeStartAddr := 0x0002
  powerEncode := { listed := [], layout := [.hi 100, .lo 100] }
  baudSet := [9600, 19200, 38400, 57600, 115200]
  enLine := Config.openEnLine
  enActiveLevel := Config.openEnActiveLevel
  settleDelayMs := 100
  disconnectDelayMs := Config.openDisconnectDelayMs
  writeTimeoutMs := Config.openWriteTimeoutMs
  rxbufCap := none
  resyncPolicy := .dropSpan
  hwerrEnPolicy := .deassert

end Sys2Proof
end

