-- ==== Sys2Proof/Machine/Bytes.lean ====
section
/-! DEFINITION. The fixed constants of R5 and the byte arithmetic of R7, R33, R57, R80 and R108. -/

namespace Sys2Proof.Machine

/-- R5, R52. -/
def header : Byte := 0xBB

/-- R5, R58. -/
def endByte : Byte := 0x7E

/-- R5, R61: RC_SUCCESS. -/
def rcSuccess : Byte := 0x10

/-- R5. -/
def epcLen : Nat := 12

/-- R5. -/
def passwordLen : Nat := 4

/-- R5. -/
def lockPayloadLen : Nat := 3

/-- R5. -/
def rfPowerMin : Int := 0

/-- R5. -/
def rfPowerMax : Int := 30

/-- R5: a value the Settings collaborator supplies as an argument (R221). -/
def rfPowerDefault : Int := 20

/-- R5, R140: a value the Settings collaborator supplies as an argument (R221). -/
def baudDefault : Nat := 115200

/-- R5: MAX_PARAMS. -/
def maxParams : Nat := 65535

/-- R5, R51: the bytes of a frame that are not Parameters. -/
def frameOverhead : Nat := 7

/-- R6, R62: WRITE_WORD_COUNT = EPC_LEN / 2. -/
def writeWordCount : Nat := epcLen / 2

/-- R5, R160: the default access password. -/
def defaultPassword : List Byte := [0x00, 0x00, 0x00, 0x00]

/-- R7: `hi8(n) = (n div 256) mod 256`. -/
def hi8 (n : Nat) : Byte := BitVec.ofNat 8 (n / 256)

/-- R7: `lo8(n) = n mod 256`. -/
def lo8 (n : Nat) : Byte := BitVec.ofNat 8 n

/-- R7: `u16be(h, l) = 256*h + l`. -/
def u16be (h l : Byte) : Nat := 256 * h.toNat + l.toNat

/-- R7: `sum8(s)`: the sum of all bytes over the naturals, reduced modulo 256 once, at the end. -/
def sum8 (s : List Byte) : Byte := BitVec.ofNat 8 (s.map BitVec.toNat).sum

/-- R57, R80: the checksum of type byte `t`, command byte `c` and parameters `p`. -/
def frameChecksum (t c : Byte) (p : List Byte) : Byte := sum8 ([t, c, hi8 p.length, lo8 p.length] ++ p)

/-- R53: the wire value of a frame type. -/
def frameTypeByte : FrameType → Byte
  | .command => 0x00
  | .response => 0x01
  | .notice => 0x02

/-- R53, R65: the frame type of a wire value; 0x03 to 0xFF are illegal. -/
def frameTypeOf (b : Byte) : Option FrameType :=
  if b = 0x00 then some .command else if b = 0x01 then some .response else if b = 0x02 then some .notice else none

/-- R50: the wire bytes of a frame, in order. -/
def wireBytes (w : Wire) : List Byte :=
  [header, frameTypeByte w.frameType, w.command, hi8 w.parameters.length, lo8 w.parameters.length] ++ w.parameters
    ++ [w.checksum, endByte]

/-- R89: `encode_frame(t, c, p)`: the wire bytes with the checksum that belongs to them. -/
def encodeFrameBytes (t : FrameType) (c : Byte) (p : List Byte) : List Byte :=
  wireBytes { frameType := t, command := c, parameters := p, checksum := frameChecksum (frameTypeByte t) c p }

/-- R108: one uppercase hexadecimal digit. -/
def hexDigit (n : Nat) : Char :=
  ['0', '1', '2', '3', '4', '5', '6', '7', '8', '9', 'A', 'B', 'C', 'D', 'E', 'F'].getD n '0'

/-- R108: the two digits of a byte, most significant nibble first. -/
def hexByte (b : Byte) : List Char := [hexDigit (b.toNat / 16), hexDigit (b.toNat % 16)]

/-- R108: bytes in index order, no prefix, no separator (D20). -/
def hexText (bs : List Byte) : Text := String.ofList (bs.flatMap hexByte)

end Sys2Proof.Machine
end

