-- ==== Sys2Proof/Machine/Operands.lean ====
section
/-! DEFINITION. The operand forms: parameter functions of the configuration (R6), the argument checks of the builders (R88,
R191), the payload layouts of R62 and R63, and which table row a command frame belongs to (R67). -/

namespace Sys2Proof.Machine

/-- R7, R33: the byte a layout gives for the number `n`. -/
def layoutByteAt (n : Nat) : LayoutByte → Byte
  | .const b => b
  | .hi scale => hi8 (scale * n)
  | .lo scale => lo8 (scale * n)

/-- R6: a parameter function (`START_POLL_PARAMS`, `POWER_ENCODE`) applied to a number. -/
def applyParamFn (f : ParamFn) (n : Nat) : List Byte :=
  match f.listed.lookup n with
  | some bs => bs
  | none => f.layout.map (layoutByteAt n)

/-- R62: `L` of the start-poll frame: the length the configuration gives for count 0 (3 under REFCFG). -/
def startPollLen (c : Config) : Nat := (applyParamFn c.startPollParams 0).length

/-- R62: `L` of the set-RF-power frame: the length the configuration gives for power 0 (2 under REFCFG). -/
def setRfPowerLen (c : Config) : Nat := (applyParamFn c.powerEncode 0).length

/-- A 16-bit number as two bytes, high byte first (R33). -/
def be16 (w : BitVec 16) : List Byte := [hi8 w.toNat, lo8 w.toNat]

/-- A 16-bit number from two bytes, high byte first (R33). -/
def ofBe16 (h l : Byte) : BitVec 16 := BitVec.ofNat 16 (u16be h l)

/-- R62, row "write EPC": password, bank, start address, word count, EPC, in that order (D8). -/
def writeEpcLayout (password : List Byte) (bank : Byte) (address words : BitVec 16) (epc : List Byte) : List Byte :=
  password ++ [bank] ++ be16 address ++ be16 words ++ epc

/-- R63: RSSI, PC, EPC, and the later bytes, which are ignored. -/
def tagPollLayout (rssi : Byte) (pc : BitVec 16) (epc later : List Byte) : List Byte :=
  [rssi] ++ be16 pc ++ epc ++ later

/-- R81, R191: at most 65535 parameter bytes (D12). -/
def checkParameters (p : List Byte) : Except ArgumentName Unit :=
  if p.length > maxParams then .error .parameters else .ok ()

/-- R83, R191: count within 0..65535 (D7). -/
def checkCount (count : Int) : Except ArgumentName Unit :=
  if count < 0 ∨ count > 65535 then .error .count else .ok ()

/-- R85, R90, R191: password exactly 4 bytes. -/
def checkPassword (password : List Byte) : Except ArgumentName Unit :=
  if password.length ≠ passwordLen then .error .password else .ok ()

/-- R85, R191: EPC exactly 12 bytes. -/
def checkEpc (epc : List Byte) : Except ArgumentName Unit :=
  if epc.length ≠ epcLen then .error .epc else .ok ()

/-- R90, R191: lock payload exactly 3 bytes. -/
def checkLockPayload (payload : List Byte) : Except ArgumentName Unit :=
  if payload.length ≠ lockPayloadLen then .error .lockPayload else .ok ()

/-- R86, R191: RF power within 0..30, rejected and not clamped (C2). -/
def checkRfPower (value : Int) : Except ArgumentName Unit :=
  if value < rfPowerMin ∨ value > rfPowerMax then .error .rfPower else .ok ()

/-- The seven command rows of the table. -/
inductive CommandRow where
  | singlePoll
  | startPoll
  | stopPoll
  | writeEpc
  | lockTag
  | setRfPower
  | getRfPower
  deriving DecidableEq, Repr

/-- R62, R67: the command row of a command byte and a parameter length; `none` where no row of the table fits and the frame
is a plain FRAME.COMMAND. -/
def commandRow (c : Config) (command : Byte) (len : Nat) : Option CommandRow :=
  if command = c.cmdSinglePoll ∧ len = 0 then some .singlePoll
  else if command = c.cmdStartPoll ∧ len = startPollLen c then some .startPoll
  else if command = c.cmdStopPoll ∧ len = 0 then some .stopPoll
  else if command = c.cmdWriteEpc ∧ len = 21 then some .writeEpc
  else if command = c.cmdLockTag ∧ len = 7 then some .lockTag
  else if command = c.cmdSetRfPower ∧ len = setRfPowerLen c then some .setRfPower
  else if command = c.cmdGetRfPower ∧ len = 0 then some .getRfPower
  else none

end Sys2Proof.Machine
end

