-- ==== Sys2Proof/WellFormed.lean ====
section
/-! DEFINITION. Which configurations and which instructions the spec admits: the constraints of R6 and the operand lengths of
R50 to R64. A frame row is well formed when its fields have their lengths and no more special row fits its bytes. -/

namespace Sys2Proof

open Sys2Proof.Machine

/-- R6: the seven command codes pairwise distinct (P-cfg, R234). -/
def Config.commandsDistinct (c : Config) : Bool :=
  decide [c.cmdSinglePoll, c.cmdStartPoll, c.cmdStopPoll, c.cmdWriteEpc, c.cmdLockTag, c.cmdSetRfPower, c.cmdGetRfPower].Nodup

/-- R6: the eight error codes pairwise distinct and different from 0x10 (P-cfg, R234). -/
def Config.responseCodesDistinct (c : Config) : Bool :=
  decide [rcSuccess, c.rcInvalidCommand, c.rcInvalidParameter, c.rcMemoryOverrun, c.rcMemoryLocked, c.rcTagNotFound,
    c.rcReadFailed, c.rcWriteFailed, c.rcLockFailed].Nodup

/-- R6: `POWER_ENCODE` injective on 0..30, `RXBUF_CAP` unbounded or at least 65542, `BAUD_SET` contains 9600 and 115200,
`SETTLE_DELAY` positive. -/
def Config.othersValid (c : Config) : Bool :=
  decide ((List.range 31).map (applyParamFn c.powerEncode)).Nodup
    && (match c.rxbufCap with | none => true | some cap => decide (65542 ≤ cap))
    && c.baudSet.contains 9600 && c.baudSet.contains 115200 && decide (0 < c.settleDelayMs)

/-- R6, R234 (P-cfg): all constraints on `cfg`. -/
def Config.valid (c : Config) : Bool := c.commandsDistinct && c.responseCodesDistinct && c.othersValid

/-- R56, R81: a parameter sequence the 16-bit `Length` can describe. -/
def paramsFit (p : List Byte) : Bool := decide (p.length ≤ maxParams)

/-- R20: a Frame has 0 to 65535 parameter bytes. -/
def frameFits (f : Frame) : Bool := paramsFit f.parameters

/-- R21: a TagPollData has exactly 12 EPC bytes. -/
def tagFits (d : TagPollData) : Bool := decide (d.epcBytes.length = epcLen)

/-- The instructions of the spec. Operations take any arguments the source's types allow (a wrong one is an ArgumentError, not
an ill-formed instruction); `checksum` is stated for at most 65535 parameter bytes (R80). -/
def wellFormed (c : Config) : Instr → Bool
  | .frameCommand command p _ => paramsFit p && decide (commandRow c command p.length = none)
  | .frameResponse _ p _ => paramsFit p && decide (p.head? ≠ some rcSuccess)
  | .frameNotice command p _ => paramsFit p && decide (command ≠ c.cmdPollNotice ∨ p.length < 15)
  | .cmdSinglePoll _ => decide (commandRow c c.cmdSinglePoll 0 = some .singlePoll)
  | .cmdStartPoll p _ => paramsFit p && decide (commandRow c c.cmdStartPoll p.length = some .startPoll)
  | .cmdStopPoll _ => decide (commandRow c c.cmdStopPoll 0 = some .stopPoll)
  | .cmdWriteEpc password _ _ _ epc _ =>
    decide (password.length = passwordLen) && decide (epc.length = epcLen)
      && decide (commandRow c c.cmdWriteEpc 21 = some .writeEpc)
  | .cmdLockTag password payload _ =>
    decide (password.length = passwordLen) && decide (payload.length = lockPayloadLen)
      && decide (commandRow c c.cmdLockTag 7 = some .lockTag)
  | .cmdSetRfPower p _ => paramsFit p && decide (commandRow c c.cmdSetRfPower p.length = some .setRfPower)
  | .cmdGetRfPower _ => decide (commandRow c c.cmdGetRfPower 0 = some .getRfPower)
  | .noticeTagPoll _ _ epc later _ => decide (epc.length = epcLen) && decide (15 + later.length ≤ maxParams)
  | .responseSuccess _ later _ => decide (1 + later.length ≤ maxParams)
  | .checksum _ _ p => paramsFit p
  | .encodeFrame _ _ _ => true
  | .buildCommand _ _ => true
  | .buildSinglePoll => true
  | .buildStartPoll _ => true
  | .buildStopPoll => true
  | .buildWriteEpc _ _ => true
  | .buildLockTag _ _ => true
  | .buildSetRfPower _ => true
  | .buildGetRfPower => true
  | .parseFrame _ => true
  | .frameChecksumValid f => frameFits f
  | .frameIsSuccess f => frameFits f
  | .frameResponseCode f => frameFits f
  | .findFrameEnd _ => true
  | .extractFrame _ => true
  | .rxPush _ => true
  | .parseTagPollData f => frameFits f
  | .epcHex d => tagFits d
  | .isReaderTag d => tagFits d
  | .responseMessage _ => true
  | .connect _ _ => true
  | .disconnect => true
  | .write _ => true
  | .envRxChunk _ => true
  | .envHwError _ => true
  | .reset => true
  | .hostStartPolling => true
  | .hostStopPolling => true
  | .hostSetRfPower _ => true
  | .hostGetRfPower => true
  | .hostWriteEpc _ => true
  | .hostLockTag _ _ => true
  | .hostVerifyEpc _ _ => true
  | .hostSinglePoll => true

end Sys2Proof
end

