-- ==== Sys2Proof/Decode.lean ====
section
/-! DEFINITION. The decoder of frames: levels 1 and 2 of R67 (`readWire`, which is the test order of R100) and level 3
(`classify`); total on any bytes, rejecting by name. After it the encoder, from the same layouts. Rows without a bit pattern
have no bytes (R68, D3). -/

namespace Sys2Proof

open Sys2Proof.Machine

/-- Why bytes are not a frame; the causes of R100, in the order of its tests. -/
inductive Reject where
  | shorterThanSeven
  | badHeader
  | badFrameType
  | endNotPresent
  | badEnd
  deriving DecidableEq, Repr

/-- R100, R66: reads one frame from the front of `b` and gives the bytes that stand after it. -/
def readWire (b : List Byte) : Except Reject (Wire × List Byte) :=
  match b with
  | h :: t :: c :: lh :: ll :: body =>
    if body.length < 2 then .error .shorterThanSeven
    else if h ≠ header then .error .badHeader
    else match frameTypeOf t with
      | none => .error .badFrameType
      | some ft =>
        match body.drop (u16be lh ll) with
        | k :: e :: rest =>
          if e ≠ endByte then .error .badEnd
          else .ok ({ frameType := ft, command := c, parameters := body.take (u16be lh ll), checksum := k }, rest)
        | _ => .error .endNotPresent
  | _ => .error .shorterThanSeven

/-- R101: the checksum byte equals the recomputed sum of type, command, length and parameter bytes. -/
def wireChecksumValid (w : Wire) : Bool := w.checksum == frameChecksum (frameTypeByte w.frameType) w.command w.parameters

/-- R100: the Frame of the bytes read; `raw_bytes` is always present on decode and holds exactly the frame (D13). -/
def frameOfWire (w : Wire) : Frame where
  frameType := w.frameType
  command := w.command
  parameters := w.parameters
  rawBytes := some (wireBytes w)
  checksumValid := wireChecksumValid w

/-- R100, R112 (a), (b): `parse_frame`; `none` is `not_parseable`, which carries no reason (D14). -/
def parseFrame (b : List Byte) : Option Frame :=
  match readWire b with
  | .ok (w, _) => some (frameOfWire w)
  | .error _ => none

/-- R67, level 3, for a Command frame. -/
def classifyCommand (c : Config) (command : Byte) (p : List Byte) (k : Byte) : Instr :=
  match commandRow c command p.length with
  | some .singlePoll => .cmdSinglePoll k
  | some .startPoll => .cmdStartPoll p k
  | some .stopPoll => .cmdStopPoll k
  | some .writeEpc =>
    .cmdWriteEpc (p.take 4) (p.getD 4 0) (ofBe16 (p.getD 5 0) (p.getD 6 0)) (ofBe16 (p.getD 7 0) (p.getD 8 0)) (p.drop 9) k
  | some .lockTag => .cmdLockTag (p.take 4) (p.drop 4) k
  | some .setRfPower => .cmdSetRfPower p k
  | some .getRfPower => .cmdGetRfPower k
  | none => .frameCommand command p k

/-- R67, level 3, for a Response frame (R64, R102). -/
def classifyResponse (command : Byte) (p : List Byte) (k : Byte) : Instr :=
  match p with
  | code :: later => if code = rcSuccess then .responseSuccess command later k else .frameResponse command (code :: later) k
  | [] => .frameResponse command [] k

/-- R67, level 3, for a Notice frame (R63, R107). -/
def classifyNotice (c : Config) (command : Byte) (p : List Byte) (k : Byte) : Instr :=
  if command = c.cmdPollNotice ∧ 15 ≤ p.length then
    .noticeTagPoll (p.getD 0 0) (ofBe16 (p.getD 1 0) (p.getD 2 0)) ((p.drop 3).take 12) (p.drop 15) k
  else .frameNotice command p k

/-- R67: the table row of a frame, the most special one that fits. -/
def classify (c : Config) (w : Wire) : Instr :=
  match w.frameType with
  | .command => classifyCommand c w.command w.parameters w.checksum
  | .response => classifyResponse w.command w.parameters w.checksum
  | .notice => classifyNotice c w.command w.parameters w.checksum

/-- R67: the instruction at the front of `b` and the bytes after it, or the named reason why there is none. -/
def decode (c : Config) (b : List Byte) : Except Reject (Instr × List Byte) :=
  match readWire b with
  | .ok (w, rest) => .ok (classify c w, rest)
  | .error r => .error r

/-- R50, R62 to R64: the frame of a frame row; `none` for a row without a bit pattern. -/
def wireOf (c : Config) : Instr → Option Wire
  | .frameCommand command p k => some { frameType := .command, command := command, parameters := p, checksum := k }
  | .frameResponse command p k => some { frameType := .response, command := command, parameters := p, checksum := k }
  | .frameNotice command p k => some { frameType := .notice, command := command, parameters := p, checksum := k }
  | .cmdSinglePoll k => some { frameType := .command, command := c.cmdSinglePoll, parameters := [], checksum := k }
  | .cmdStartPoll p k => some { frameType := .command, command := c.cmdStartPoll, parameters := p, checksum := k }
  | .cmdStopPoll k => some { frameType := .command, command := c.cmdStopPoll, parameters := [], checksum := k }
  | .cmdWriteEpc password bank address words epc k =>
    some { frameType := .command, command := c.cmdWriteEpc, parameters := writeEpcLayout password bank address words epc, checksum := k }
  | .cmdLockTag password payload k =>
    some { frameType := .command, command := c.cmdLockTag, parameters := password ++ payload, checksum := k }
  | .cmdSetRfPower p k => some { frameType := .command, command := c.cmdSetRfPower, parameters := p, checksum := k }
  | .cmdGetRfPower k => some { frameType := .command, command := c.cmdGetRfPower, parameters := [], checksum := k }
  | .noticeTagPoll rssi pc epc later k =>
    some { frameType := .notice, command := c.cmdPollNotice, parameters := tagPollLayout rssi pc epc later, checksum := k }
  | .responseSuccess command later k =>
    some { frameType := .response, command := command, parameters := rcSuccess :: later, checksum := k }
  | .checksum _ _ _ => none
  | .encodeFrame _ _ _ => none
  | .buildCommand _ _ => none
  | .buildSinglePoll => none
  | .buildStartPoll _ => none
  | .buildStopPoll => none
  | .buildWriteEpc _ _ => none
  | .buildLockTag _ _ => none
  | .buildSetRfPower _ => none
  | .buildGetRfPower => none
  | .parseFrame _ => none
  | .frameChecksumValid _ => none
  | .frameIsSuccess _ => none
  | .frameResponseCode _ => none
  | .findFrameEnd _ => none
  | .extractFrame _ => none
  | .rxPush _ => none
  | .parseTagPollData _ => none
  | .epcHex _ => none
  | .isReaderTag _ => none
  | .responseMessage _ => none
  | .connect _ _ => none
  | .disconnect => none
  | .write _ => none
  | .envRxChunk _ => none
  | .envHwError _ => none
  | .reset => none
  | .hostStartPolling => none
  | .hostStopPolling => none
  | .hostSetRfPower _ => none
  | .hostGetRfPower => none
  | .hostWriteEpc _ => none
  | .hostLockTag _ _ => none
  | .hostVerifyEpc _ _ => none
  | .hostSinglePoll => none

/-- R50: the wire bytes of a frame row; `none` for a row without a bit pattern (R68, D3). -/
def encode (c : Config) (i : Instr) : Option (List Byte) := (wireOf c i).map wireBytes

/-- A number of the opcode table as bytes: the table writes byte 0 of a frame as the most significant one. -/
def bytesOfTableWord (nbits w : Nat) : List Byte :=
  let n := nbits / 8
  (List.range n).map fun i => BitVec.ofNat 8 (w / 256 ^ (n - 1 - i))

/-- A whole frame from the prefix the table gives: parameter bytes the prefix lacks are 0, and the checksum and end bytes it
lacks are the ones the format computes and fixes (R50; log 19). -/
def completeFrame (front : List Byte) : List Byte :=
  let five := (front ++ List.replicate 5 0).take 5
  let l := u16be (five.getD 3 0) (five.getD 4 0)
  let upToParams := (front ++ List.replicate (5 + l) 0).take (5 + l)
  let k := front.getD (5 + l) (sum8 (upToParams.drop 1))
  let e := front.getD (6 + l) endByte
  upToParams ++ [k, e]

/-- The bytes that stand for a word of the opcode table. -/
def tableWordBytes (nbits w : Nat) : List Byte := completeFrame (bytesOfTableWord nbits w)

/-- The instruction the decoder reads from a word of the opcode table, under the table's own configuration REFCFG. -/
def decodeTableWord (nbits w : Nat) : Option Instr :=
  match decode Config.reference (tableWordBytes nbits w) with
  | .ok (i, _) => some i
  | .error _ => none

end Sys2Proof
end

