-- ==== Sys2Proof/Machine/State.lean ====
section
/-! DEFINITION. The state: the block's elements of R10, the operation in progress, the stream histories of R30, the host's
state of R160, the configuration of R6, and the model's own inputs (agenda, answers) and counter of free values. -/

namespace Sys2Proof.Machine

/-- R12: the transport status. -/
inductive Status where
  | disconnected
  | connecting
  | connected
  | error
  deriving DecidableEq, Repr

/-- R17: the two logical values of EN. -/
inductive Line where
  | deasserted
  | asserted
  deriving DecidableEq, Repr

/-- R12 to R15, R22: the connection-state register CONN, and the element type of STATE_OUT. -/
structure ConnectionState where
  status : Status
  portName : Option Text
  baudRate : Option Nat
  moduleEnabled : Bool
  errorMessage : Option Text
  deriving DecidableEq, Repr

/-- R131, R132, R133: the next step of the `connect` or `disconnect` in progress; F1 with the text of the failure (log 31). -/
inductive Phase where
  | k2
  | k3
  | k4
  | k5
  | f1 (msg : Text)
  | d2
  | d3
  | d4
  | d5
  deriving DecidableEq, Repr

/-- The parity argument of `env.open_port` (R140). -/
inductive Parity where
  | noParity
  deriving DecidableEq, Repr

/-- R8, R131, R134, R204: a question the block puts to the environment. `attachReader` is the failure R132 admits in K5
(log 20). -/
inductive EnvQuestion where
  | openPort (port : Option Text) (baud : Option Nat) (dataBits stopBits : Nat) (parity : Parity)
  | assertEnable
  | settle
  | attachReader
  | portWrite (bytes : List Byte)
  deriving DecidableEq, Repr

/-- The operations of the transport that return success or failure (R131, R133, R134). -/
inductive TransportOp where
  | connect
  | disconnect
  | write
  deriving DecidableEq, Repr

/-- R163 to R171: the host operations. -/
inductive HostOp where
  | startPolling
  | stopPolling
  | setRfPower
  | getRfPower
  | writeEpc
  | lockTag
  | verifyEpc
  | singlePoll
  deriving DecidableEq, Repr

/-- R110: a response message: one of nine labels, or the generic text. -/
inductive Message where
  | labeled (l : ResponseLabel)
  | unknown (t : Text)
  deriving DecidableEq, Repr

/-- Why a host operation fails (R160, R164 to R169). -/
inductive HostFailure where
  | argument (which : ArgumentName) (text : Text)   -- R191
  | slotOccupied                                    -- R160
  | notSent                                         -- R168, R192: not connected, or the write failed
  | response (code : Option Byte) (msg : Option Message)   -- R164, R165
  | timeout                                         -- R195
  | cancelled                                       -- R169
  deriving DecidableEq, Repr

/-- The outcome of a host operation. -/
inductive HostResult where
  | success
  | value (v : Int)
  | tagReads (ts : List TagPollData)
  | verified (expected : List Byte) (found : Bool)
  | failure (why : HostFailure)
  deriving DecidableEq, Repr

/-- R8: the result values returned on the operation port. -/
inductive Result where
  | byte (b : Byte)
  | bytes (bs : List Byte)
  | argumentError (which : ArgumentName) (text : Text)
  | frame (f : Frame)
  | notParseable
  | flag (b : Bool)
  | optByte (o : Option Byte)
  | found (index : Nat)
  | notFound
  | extracted (frameBytes remaining : List Byte)
  | incomplete
  | tagPoll (d : TagPollData)
  | noData
  | text (t : Text)
  | message (m : Message)
  | transport (op : TransportOp) (success : Bool)
  | host (op : HostOp) (r : HostResult)
  deriving DecidableEq, Repr

/-- R160: the one command awaiting a Response: its waiter and its command byte. -/
structure Waiter where
  op : HostOp
  command : Byte
  deriving DecidableEq, Repr

/-- R167: a `verify_epc` that waits. -/
structure Verify where
  expected : List Byte
  timeout : Nat
  deriving DecidableEq, Repr

/-- R232: a move of one agent. `request`: the host presents an operation or the environment raises an event; `block`: the block
takes the next step of the operation in progress; the two timeouts are the host's timers (R168, R195). -/
inductive Turn where
  | request (i : Instr)
  | block
  | responseTimeout
  | verifyTimeout (index : Nat)
  deriving DecidableEq, Repr

/-- Why the machine stops with a fault. The spec gives the block none of its own: its errors are result values (R190). -/
inductive Fault where
  /-- Raised by `step` when the agenda presents a frame row as a request: the operation port carries operations and events,
  selected by name, and no frames (R68). Safe: the hardware has no such request. -/
  | frameOnOperationPort
  deriving DecidableEq, Repr

/-- Why a step has no meaning. All but the first are the spec's own refusals. -/
inductive Refusal where
  /-- An instruction the model gives no meaning; no arm of exec raises it. Safe. -/
  | notModelled (mnemonic : String)
  /-- Raised by connect while Connecting or Connected and by disconnect outside Connected (R139, U11). Safe. -/
  | outsideDiagram
  /-- Raised by connect, disconnect and write (and by a host operation that writes) while a connect or disconnect is in
  progress (R141, U12). Safe. -/
  | transportBusy
  /-- Raised by reset when anything has happened since power-on (R220, U24). Safe. -/
  | midRunReset
  /-- Raised by rx_push and env.rx_chunk when RXBUF would exceed a finite RXBUF_CAP (R36, U14). Safe. -/
  | rxbufOverflow
  deriving DecidableEq, Repr

/-- The state of the machine. -/
structure State where
  -- R6 (read-only: no step writes it)
  cfg : Config
  -- R10: the block
  rxbuf : List Byte
  conn : ConnectionState
  en : Line
  portOpen : Bool
  readerActive : Bool
  -- R131, R133: the operation in progress
  busy : Option Phase
  -- R220: an event of the run has happened, so a reset is no longer its first
  runBegun : Bool
  -- R30: the streams, histories that only grow, oldest first
  tx : List Byte
  byteOut : List (List Byte)
  frameOut : List Frame
  stateOut : List ConnectionState
  enOut : List Line
  asked : List EnvQuestion
  results : List Result
  -- R160, R167: the host
  pending : Option Waiter
  polling : Bool
  password : List Byte
  pollOut : List TagPollData
  verifies : List Verify
  -- the model's own: inputs still to come, counter of free values
  agenda : List Turn
  answers : List EnvAnswer
  draws : Nat
  deriving DecidableEq, Repr

/-- R27: CONN after reset. -/
def ConnectionState.reset : ConnectionState where
  status := .disconnected
  portName := none
  baudRate := none
  moduleEnabled := false
  errorMessage := none

/-- R27, R220, R221: the state after reset under a configuration, which is the state in which a run begins: the event `reset`
itself may still come as its first event (log 25). -/
def State.resetWith (c : Config) : State where
  cfg := c
  rxbuf := []
  conn := ConnectionState.reset
  en := .deasserted
  portOpen := false
  readerActive := false
  busy := none
  runBegun := false
  tx := []
  byteOut := []
  frameOut := []
  stateOut := []
  enOut := []
  asked := []
  results := []
  pending := none
  polling := false
  password := defaultPassword
  pollOut := []
  verifies := []
  agenda := []
  answers := []
  draws := 0

/-- R27, R220: the state after reset, under REFCFG (log 1). -/
def State.reset : State := State.resetWith Config.reference

end Sys2Proof.Machine
end

