-- ==== Sys2Proof/Machine/Codec.lean ====
section
/-! DEFINITION. The pure functions of the codec over byte sequences: frame search and extraction (R104, R105), resynchronisation
(R106), the tag-poll parser (R107) and the seven builders with their argument checks (R81 to R90). -/

namespace Sys2Proof.Machine

/-- The least index with the header byte (R104). -/
def findHeader (buf : List Byte) : Option Nat := buf.findIdx? (· == header)

/-- R104: the index of the end byte of the first header candidate, if the candidate fits; neither the end byte nor the type is
looked at (D15). -/
def findFrameEnd (buf : List Byte) : Option Nat :=
  match findHeader buf with
  | none => none
  | some h =>
    match buf.drop h with
    | _ :: _ :: _ :: lh :: ll :: _ =>
      if h + 6 + u16be lh ll ≥ buf.length then none else some (h + 6 + u16be lh ll)
    | _ => none

/-- R105: the candidate's bytes and the bytes after it; `none` is `incomplete`. The garbage before the header is in neither. -/
def extractFrame (buf : List Byte) : Option (List Byte × List Byte) :=
  match findHeader buf, findFrameEnd buf with
  | some h, some e => some ((buf.take (e + 1)).drop h, buf.drop (e + 1))
  | _, _ => none

/-- R106, D17: what is left of RXBUF after a candidate that does not parse; `rest` is what extraction left. -/
def resync (policy : ResyncPolicy) (buf rest : List Byte) : List Byte :=
  match policy with
  | .dropSpan => rest
  | .dropHeaderByte =>
    match findHeader buf with
    | some h => buf.drop (h + 1)
    | none => rest

/-- R107 (C1, D18): a tag observation; `none` is `no_data`. -/
def parseTagPoll (c : Config) (f : Frame) : Option TagPollData :=
  if f.frameType ≠ .notice then none
  else if f.command ≠ c.cmdPollNotice then none
  else if f.parameters.length < 4 then none
  else if f.parameters.length < 15 then none
  else some { rssi := f.parameters.getD 0 0, pc := ofBe16 (f.parameters.getD 1 0) (f.parameters.getD 2 0),
              epcBytes := (f.parameters.take 15).drop 3 }

/-- R81: `build_command`. -/
def buildCommand (command : Byte) (p : List Byte) : Except ArgumentName (List Byte) := do
  checkParameters p
  return encodeFrameBytes .command command p

/-- R89: `encode_frame`, which is `build_command` generalised to any type (with its length check, log 15). -/
def encodeFrame (t : FrameType) (command : Byte) (p : List Byte) : Except ArgumentName (List Byte) := do
  checkParameters p
  return encodeFrameBytes t command p

/-- R82. -/
def buildSinglePoll (c : Config) : Except ArgumentName (List Byte) := buildCommand c.cmdSinglePoll []

/-- R83. -/
def buildStartPoll (c : Config) (count : Int) : Except ArgumentName (List Byte) := do
  checkCount count
  buildCommand c.cmdStartPoll (applyParamFn c.startPollParams count.toNat)

/-- R84. -/
def buildStopPoll (c : Config) : Except ArgumentName (List Byte) := buildCommand c.cmdStopPoll []

/-- R85. -/
def buildWriteEpc (c : Config) (password epc : List Byte) : Except ArgumentName (List Byte) := do
  checkPassword password
  checkEpc epc
  buildCommand c.cmdWriteEpc (writeEpcLayout password c.membankEpc c.writeStartAddr (BitVec.ofNat 16 writeWordCount) epc)

/-- R90. -/
def buildLockTag (c : Config) (password payload : List Byte) : Except ArgumentName (List Byte) := do
  checkPassword password
  checkLockPayload payload
  buildCommand c.cmdLockTag (password ++ payload)

/-- R86. -/
def buildSetRfPower (c : Config) (value : Int) : Except ArgumentName (List Byte) := do
  checkRfPower value
  buildCommand c.cmdSetRfPower (applyParamFn c.powerEncode value.toNat)

/-- R87. -/
def buildGetRfPower (c : Config) : Except ArgumentName (List Byte) := buildCommand c.cmdGetRfPower []

end Sys2Proof.Machine
end

