-- ==== Sys2Proof/Machine/Flags.lean ====
section
/-! DEFINITION. The flag-like values of R24: the derived fields of a Frame (R102, R103; `checksum_valid`, R101, is
`Sys2Proof.wireChecksumValid`), of a tag observation (R108, R109), and the message of a response code (R110). -/

namespace Sys2Proof.Machine

/-- R103: the first parameter byte, Response only. -/
def responseCode (f : Frame) : Option Byte :=
  match f.frameType with
  | .response => f.parameters.head?
  | .command => none
  | .notice => none

/-- R102: a Response whose first parameter byte is the success code; `checksum_valid` plays no part. -/
def isSuccess (f : Frame) : Bool := responseCode f == some rcSuccess

/-- R109: the first two EPC bytes equal VENDOR_PREFIX. -/
def isReaderTag (c : Config) (d : TagPollData) : Bool :=
  d.epcBytes.take 2 == [c.vendorPrefix0, c.vendorPrefix1]

/-- R108. -/
def epcHex (d : TagPollData) : Text := hexText d.epcBytes

/-- R110, D21: "unknown error 0xNN". -/
def unknownErrorText (code : Byte) : Text := "unknown error 0x" ++ hexText [code]

/-- R110: the label of a code, or the generic text. -/
def responseMessage (c : Config) (code : Byte) : Message :=
  if code = rcSuccess then .labeled .success
  else if code = c.rcInvalidCommand then .labeled .invalidCommand
  else if code = c.rcInvalidParameter then .labeled .invalidParameter
  else if code = c.rcMemoryOverrun then .labeled .memoryOverrun
  else if code = c.rcMemoryLocked then .labeled .memoryLocked
  else if code = c.rcTagNotFound then .labeled .tagNotFound
  else if code = c.rcReadFailed then .labeled .readFailed
  else if code = c.rcWriteFailed then .labeled .writeFailed
  else if code = c.rcLockFailed then .labeled .lockFailed
  else .unknown (unknownErrorText code)

/-- R110, U10: the wording: the generic text, or a wording the source leaves open. -/
def messageText : Message → Text
  | .labeled l => Config.labelText l
  | .unknown t => t

/-- R12, D39: the numeric encoding of a status, used by no rule. -/
def statusCode : Status → Nat
  | .disconnected => 0
  | .connecting => 1
  | .connected => 2
  | .error => 3

/-- R17: the electrical level of the control line `cfg.enLine` for a logical level of EN. -/
def enPin (c : Config) (l : Line) : PinLevel :=
  match l, c.enActiveLevel with
  | .asserted, level => level
  | .deasserted, .low => .high
  | .deasserted, .high => .low

end Sys2Proof.Machine
end

