-- ==== Sys2Proof/Machine/Ops.lean ====
section
/-! DEFINITION. The named operations on the state: results, streams, CONN, EN, RXBUF, the environment's answers, the outbound
write, and entering and leaving the Error state (R199, R200), which is what this block has for exceptions. -/

namespace Sys2Proof.Machine

/-- What a step answers. -/
abbrev StepOutcome := Host.Outcome State Fault Refusal

/-- R8, D47: an operation returns a result. -/
def State.giveResult (r : Result) (s : State) : State := { s with results := s.results ++ [r] }

/-- R137: writes CONN and emits the new value on STATE_OUT; no other operation writes CONN (R16). -/
def State.publish (c : ConnectionState) (s : State) : State := { s with conn := c, stateOut := s.stateOut ++ [c] }

/-- R17, R138: drives EN; the history `enOut` gets an entry when the level changes. -/
def State.driveEn (l : Line) (s : State) : State :=
  if s.en = l then s else { s with en := l, enOut := s.enOut ++ [l] }

/-- R8: `TxEmit`. -/
def State.txEmit (bs : List Byte) (s : State) : State := { s with tx := s.tx ++ bs }

/-- R8, R36: `RxAppend`; refused where RXBUF would exceed a finite RXBUF_CAP (U14). -/
def State.rxAppend (bs : List Byte) (s : State) : Except Refusal State :=
  match s.cfg.rxbufCap with
  | none => .ok { s with rxbuf := s.rxbuf ++ bs }
  | some cap =>
    if s.rxbuf.length + bs.length > cap then .error .rxbufOverflow else .ok { s with rxbuf := s.rxbuf ++ bs }

/-- R8, U17: puts a question to the environment; the answer is the next one of `answers`, or a free value (log 3). -/
def State.ask (q : EnvQuestion) (s : State) : EnvAnswer × State :=
  match s.answers with
  | a :: rest => (a, { s with answers := rest, asked := s.asked ++ [q] })
  | [] => (Config.freeAnswer s.draws, { s with draws := s.draws + 1, asked := s.asked ++ [q] })

/-- R88, R190, R191: a builder returns its bytes, or ArgumentError with a free text (U9). -/
def State.giveBuilt (built : Except ArgumentName (List Byte)) (s : State) : State :=
  match built with
  | .ok bs => s.giveResult (.bytes bs)
  | .error which =>
    { s.giveResult (.argumentError which (Config.freeArgumentText s.draws)) with draws := s.draws + 1 }

/-- R134: the outbound write, without its result value: whether it succeeded. Refused while an operation is in progress (R141),
except in Connecting, where it fails as in every state but Connected. -/
def State.transportWrite (bs : List Byte) (s : State) : Except Refusal (Bool × State) :=
  if s.conn.status ≠ .connected then .ok (false, s)
  else if s.busy.isSome then .error .transportBusy
  else match s.ask (.portWrite bs) with
    | (.ok, s') => .ok (true, s'.txEmit bs)
    | (.fail _ sent, s') => .ok (false, s'.txEmit (bs.take sent))

/-- R132, R136: EN after an error, by policy. -/
def errorLine (policy : HwerrEnPolicy) (s : State) : Line :=
  match policy with
  | .deassert => .deasserted
  | .keep => s.en
  | .any => if Config.freeBit s.draws then .asserted else .deasserted

/-- R132, R136, R14: CONN.module_enabled after an error, by policy. -/
def errorModuleEnabled (policy : HwerrEnPolicy) (s : State) : Bool :=
  match policy with
  | .deassert => false
  | .keep => s.conn.moduleEnabled
  | .any => Config.freeBit s.draws

/-- R132, R136: PORT_OPEN after an error, by policy. -/
def errorPortOpen (policy : HwerrEnPolicy) (s : State) : Bool :=
  match policy with
  | .deassert => false
  | .keep => s.portOpen
  | .any => Config.freeBit (s.draws + 1)

/-- R199: entering Error, the one operation for both ways in (R132 with `deassert`, R136 with `cfg.hwerrEnPolicy`): the
message is recorded, EN and the port follow the policy, the reader is released, port name and rate become free values (R13,
U7), RXBUF is kept, and CONN is emitted. -/
def State.enterError (policy : HwerrEnPolicy) (msg : Text) (s : State) : State :=
  State.publish
    { status := .error
      portName := Config.freePortName (s.draws + 2)
      baudRate := Config.freeBaudRate (s.draws + 2)
      moduleEnabled := errorModuleEnabled policy s
      errorMessage := some msg }
    { s.driveEn (errorLine policy s) with
      portOpen := errorPortOpen policy s
      readerActive := false
      draws := s.draws + 3 }

/-- R131 step K1, R200: entering Connecting, from Disconnected or as the return from Error. -/
def State.beginConnect (port : Text) (baud : Nat) (s : State) : State :=
  State.publish
    { status := .connecting
      portName := some port
      baudRate := some baud
      moduleEnabled := false
      errorMessage := none }
    { s.driveEn .deasserted with busy := some .k2 }

/-- R132, step F1: the `connect` in progress ends in Error with the text of the failing answer. -/
def State.connectFailed (msg : Text) (s : State) : State :=
  { (s.enterError .deassert msg).giveResult (.transport .connect false) with busy := none }

/-- R220: an event of the run happens. -/
def State.beginRun (s : State) : State := { s with runBegun := true }

/-- R220: the state in which a request runs: it is an event of the run, and only `reset` itself asks whether it is the first
(and then begins the run, `State.powerOn`). -/
def State.enterRun (i : Instr) (s : State) : State := if i = .reset then s else s.beginRun

/-- R220, R10, R27: power-on: no event of the run has happened, and every element of the block, every history and the host's
slot are as at reset. -/
def State.atPowerOn (s : State) : Bool :=
  decide (s.runBegun = false ∧ s.rxbuf = [] ∧ s.conn = ConnectionState.reset ∧ s.en = .deasserted ∧ s.portOpen = false
    ∧ s.readerActive = false ∧ s.busy = none ∧ s.tx = [] ∧ s.byteOut = [] ∧ s.frameOut = [] ∧ s.stateOut = []
    ∧ s.enOut = [] ∧ s.asked = [] ∧ s.results = [] ∧ s.pending = none ∧ s.polling = false ∧ s.pollOut = []
    ∧ s.verifies = [])

/-- R27, R220: the reset values under the same configuration, and the run has begun; the inputs still to come and the counter of
free values are no hardware state and stay. -/
def State.powerOn (s : State) : State :=
  { State.resetWith s.cfg with runBegun := true, agenda := s.agenda, answers := s.answers, draws := s.draws }

/-- R30: the delivered part of the inbound byte stream RX. -/
def State.rxDelivered (s : State) : List Byte := s.byteOut.flatten

end Sys2Proof.Machine
end

