-- ==== Sys2Proof/Machine/HostOps.lean ====
section
/-! DEFINITION. The host's shared operations: dispatch of FRAME_OUT (R161, R162), the pending slot (R160), cancellation (R169),
timeouts (R195), and the shape of an operation that sends a command and awaits its Response (R164 to R168). -/

namespace Sys2Proof.Machine

/-- A host operation fails. -/
def State.hostFail (op : HostOp) (why : HostFailure) (s : State) : State := s.giveResult (.host op (.failure why))

/-- R191: a host operation fails with an ArgumentError; the text is a free value (U9). -/
def State.hostArgumentFail (op : HostOp) (which : ArgumentName) (s : State) : State :=
  { s.hostFail op (.argument which (Config.freeArgumentText s.draws)) with draws := s.draws + 1 }

/-- What a success Response means for the operation that waits (R164 to R166, R171). The power value and the tag reads of a
longer single-poll Response are not in the source (N14, N15) and are free. -/
def successOutcome (op : HostOp) (p : List Byte) : HostResult :=
  match op with
  | .getRfPower => .value (Config.powerOfResponse p)
  | .singlePoll =>
    .tagReads (if p = [rcSuccess] then [] else (Config.singlePollTags p).filter fun d => d.epcBytes.length == epcLen)
  | .startPolling => .success
  | .stopPolling => .success
  | .setRfPower => .success
  | .writeEpc => .success
  | .lockTag => .success
  | .verifyEpc => .success

/-- R161, R164, R165: what the awaited Response tells the waiter; a code other than success is a failure that carries it.
DESIGN CHOICE (log 32): so it is for `single_poll` too, of which R171 states the success without extra bytes only, and a
Response without a parameter byte is a failure without a code. For `lock_tag`: log 17. -/
def waiterOutcome (c : Config) (op : HostOp) (f : Frame) : HostResult :=
  if isSuccess f then successOutcome op f.parameters
  else .failure (.response (responseCode f) ((responseCode f).map (responseMessage c)))

/-- R161: a Response that matches the pending command by its command byte (D43) goes to the waiter and clears the slot; any
other is dropped. -/
def State.dispatchResponse (f : Frame) (s : State) : State :=
  match s.pending with
  | some w =>
    if w.command = f.command then
      { s.giveResult (.host w.op (waiterOutcome s.cfg w.op f)) with pending := none }
    else s
  | none => s

/-- R162, R167: a tag observation on POLL_OUT; every waiting `verify_epc` with this EPC resolves true. -/
def State.emitPoll (d : TagPollData) (s : State) : State :=
  { s with
    pollOut := s.pollOut ++ [d]
    verifies := s.verifies.filter fun v => v.expected != d.epcBytes
    results := s.results
      ++ (s.verifies.filter fun v => v.expected == d.epcBytes).map fun v => .host .verifyEpc (.verified v.expected true) }

/-- R162: a tag observation reaches POLL_OUT while polling; every other Notice is dropped. -/
def State.dispatchNotice (f : Frame) (s : State) : State :=
  match parseTagPoll s.cfg f with
  | some d => if s.polling then s.emitPoll d else s
  | none => s

/-- R161, R162, R111: the host's dispatch of one Frame; a Command frame is dropped (D22). -/
def State.dispatchFrame (f : Frame) (s : State) : State :=
  match f.frameType with
  | .command => s
  | .response => s.dispatchResponse f
  | .notice => s.dispatchNotice f

/-- R169: the pending waiter is failed, and polling ends. -/
def State.cancelHost (s : State) : State :=
  match s.pending with
  | some w => { s.hostFail w.op .cancelled with pending := none, polling := false }
  | none => { s with polling := false }

/-- R195: the bounded wait of the pending command is over. -/
def State.responseTimeout (s : State) : State :=
  match s.pending with
  | some w => { s.hostFail w.op .timeout with pending := none }
  | none => s

/-- R167, R195: the timeout of one waiting `verify_epc` is over. -/
def State.verifyTimeout (index : Nat) (s : State) : State :=
  match s.verifies[index]? with
  | some v => { s.giveResult (.host .verifyEpc (.verified v.expected false)) with verifies := s.verifies.eraseIdx index }
  | none => s

/-- R160, R164 to R168: a host operation that sends one command and awaits its Response: arguments first (R88), then the
single-slot guard, then the write with its connection gate; on success the slot is taken. -/
def hostCommand (op : HostOp) (command : Byte) (built : Except ArgumentName (List Byte)) (s : State) : StepOutcome :=
  match built with
  | .error which => .next (s.hostArgumentFail op which)
  | .ok bs =>
    if s.pending.isSome then .next (s.hostFail op .slotOccupied)
    else match s.transportWrite bs with
      | .error r => .refused r
      | .ok (false, s') => .next (s'.hostFail op .notSent)
      | .ok (true, s') => .next { s' with pending := some { op := op, command := command } }

/-- R163: `start_polling` and `stop_polling`: fail outside Connected, succeed without sending when POLLING already has the
wanted value, else send. -/
def hostSetPolling (op : HostOp) (wanted : Bool) (built : Except ArgumentName (List Byte)) (s : State) : StepOutcome :=
  if s.conn.status ≠ .connected then .next (s.hostFail op .notSent)
  else if s.polling = wanted then .next (s.giveResult (.host op .success))
  else match built with
    | .error which => .next (s.hostArgumentFail op which)
    | .ok bs =>
      match s.transportWrite bs with
      | .error r => .refused r
      | .ok (false, s') => .next (s'.hostFail op .notSent)
      | .ok (true, s') => .next { s'.giveResult (.host op .success) with polling := wanted }

end Sys2Proof.Machine
end

