-- ==== Sys2Proof/Machine/Receive.lean ====
section
/-! DEFINITION. The receive path: what happens to one Frame (R111), one turn of the extraction loop, and the loop (R106). -/

namespace Sys2Proof.Machine

/-- R106, R111: a parseable frame is emitted on FRAME_OUT, whatever its type, command or checksum, and the host dispatches it
(log 21). -/
def State.deliver (f : Frame) (s : State) : State := State.dispatchFrame f { s with frameOut := s.frameOut ++ [f] }

/-- R106: one turn of the loop; `none` where no complete candidate is in RXBUF. A candidate that does not parse is a
ProtocolError, local and silent (R193): bytes are discarded by RESYNC_POLICY. -/
def State.receiveOne (s : State) : Option State :=
  match extractFrame s.rxbuf with
  | none => none
  | some (candidate, rest) =>
    match parseFrame candidate with
    | some f => some (State.deliver f { s with rxbuf := rest })
    | none => some { s with rxbuf := resync s.cfg.resyncPolicy s.rxbuf rest }

/-- R106: the loop, which keeps the laws (c), (d) and (e) of R112. Every turn removes at least one byte, so RXBUF's length is
enough fuel. -/
def State.drain : Nat → State → State
  | 0, s => s
  | n + 1, s =>
    match s.receiveOne with
    | none => s
    | some s' => State.drain n s'

/-- R106, R112: `rx_push`. -/
def State.rxPush (chunk : List Byte) (s : State) : Except Refusal State :=
  match s.rxAppend chunk with
  | .error r => .error r
  | .ok s' => .ok (State.drain s'.rxbuf.length s')

/-- A frame row stands in RXBUF and is taken: its Frame is delivered. -/
def takeFrame (w : Wire) (s : State) : StepOutcome := .next (s.deliver (frameOfWire w))

end Sys2Proof.Machine
end

