-- ==== Sys2Proof/Machine/Transport.lean ====
section
/-! DEFINITION. The meanings of the transport operations and the environment events (R131 to R139, R220), and the steps K2 to K5,
F1 and D2 to D5 that the block takes by itself afterwards. -/

namespace Sys2Proof.Machine

/-- connect (R131 step K1); refused outside the diagram (R139) and while an operation is in progress (R141). -/
def execConnect (port : Text) (baud : Nat) (s : State) : StepOutcome :=
  if s.busy.isSome then .refused .transportBusy
  else match s.conn.status with
    | .disconnected => .next (s.beginConnect port baud)
    | .error => .next (s.beginConnect port baud)
    | .connecting => .refused .outsideDiagram
    | .connected => .refused .outsideDiagram

/-- disconnect (R133 step D1); the host resolves its pending request when it calls it (R169). -/
def execDisconnect (s : State) : StepOutcome :=
  if s.busy.isSome then .refused .transportBusy
  else match s.conn.status with
    | .connected =>
      .next (State.publish { s.conn with moduleEnabled := false }
        { s.cancelHost.driveEn .deasserted with busy := some .d2 })
    | .disconnected => .refused .outsideDiagram
    | .connecting => .refused .outsideDiagram
    | .error => .refused .outsideDiagram

/-- write (R134). -/
def execWrite (bytes : List Byte) (s : State) : StepOutcome :=
  match s.transportWrite bytes with
  | .error r => .refused r
  | .ok (done, s') => .next (s'.giveResult (.transport .write done))

/-- env.rx_chunk (R135, R142); while the reader is not attached the bytes are not seen by the block (log 22). -/
def execEnvRxChunk (bytes : List Byte) (s : State) : StepOutcome :=
  if s.readerActive then
    match State.rxPush bytes { s with byteOut := s.byteOut ++ [bytes] } with
    | .ok s' => .next s'
    | .error r => .refused r
  else .next s

/-- env.hw_error (R136): enters Error by the policy; ignored during a disconnect, and no event outside Connected (log 22). The
host sees CONN leave Connected and cancels (R169). -/
def execEnvHwError (msg : Text) (s : State) : StepOutcome :=
  if s.conn.status = .connected ∧ s.busy = none then .next (s.enterError s.cfg.hwerrEnPolicy msg).cancelHost
  else .next s

/-- reset (R220): power-on, the first event of a run only; refused in mid-run (U24, log 25). -/
def execReset (s : State) : StepOutcome :=
  if s.atPowerOn then .next s.powerOn else .refused .midRunReset

/-- R131 step K2: the port is opened with 8 data bits, 1 stop bit, no parity (R140). In K2 to K5 a failing answer makes F1 the
next step, with its text (R131, R132), and has no other effect. -/
def stepK2 (s : State) : State :=
  match s.ask (.openPort s.conn.portName s.conn.baudRate 8 1 .noParity) with
  | (.ok, s') => { s' with portOpen := true, busy := some .k3 }
  | (.fail msg _, s') => { s' with busy := some (.f1 msg) }

/-- R131 step K3: EN is asserted and CONN.module_enabled follows in the same step. -/
def stepK3 (s : State) : State :=
  match s.ask .assertEnable with
  | (.ok, s') =>
    State.publish { s'.conn with moduleEnabled := true } { s'.driveEn .asserted with busy := some .k4 }
  | (.fail msg _, s') => { s' with busy := some (.f1 msg) }

/-- R131 step K4: the settle delay. -/
def stepK4 (s : State) : State :=
  match s.ask .settle with
  | (.ok, s') => { s' with busy := some .k5 }
  | (.fail msg _, s') => { s' with busy := some (.f1 msg) }

/-- R131 step K5: the reader is attached, Connected. R132 counts K5 among the steps that can fail (log 20). -/
def stepK5 (s : State) : State :=
  match s.ask .attachReader with
  | (.ok, s') =>
    { (State.publish { s'.conn with status := .connected } { s' with readerActive := true }).giveResult
        (.transport .connect true) with busy := none }
  | (.fail msg _, s') => { s' with busy := some (.f1 msg) }

/-- R133 step D2: the brief wait. -/
def stepD2 (s : State) : State := { s with busy := some .d3 }

/-- R133 step D3: the reader is released. -/
def stepD3 (s : State) : State := { s with readerActive := false, busy := some .d4 }

/-- R133 step D4: the port is closed. -/
def stepD4 (s : State) : State := { s with portOpen := false, busy := some .d5 }

/-- R133 step D5: Disconnected; port name and rate become free values (R13, U7). -/
def stepD5 (s : State) : State :=
  { (State.publish
      { status := .disconnected
        portName := Config.freePortName s.draws
        baudRate := Config.freeBaudRate s.draws
        moduleEnabled := s.conn.moduleEnabled
        errorMessage := none } s).giveResult (.transport .disconnect true) with
    busy := none, draws := s.draws + 1 }

/-- R131, R132, R133: the next step of the operation in progress. -/
def phaseStep (p : Phase) (s : State) : State :=
  match p with
  | .k2 => stepK2 s
  | .k3 => stepK3 s
  | .k4 => stepK4 s
  | .k5 => stepK5 s
  | .f1 msg => s.connectFailed msg
  | .d2 => stepD2 s
  | .d3 => stepD3 s
  | .d4 => stepD4 s
  | .d5 => stepD5 s

/-- R232: the block's move: the next step of the operation in progress, nothing where there is none. -/
def blockStep (s : State) : State :=
  match s.busy with
  | none => s
  | some p => phaseStep p s

end Sys2Proof.Machine
end

