-- ==== Sys2Proof/Machine/Agents.lean ====
section
/-! DEFINITION. Which move comes next (R198, R232): a complete candidate in RXBUF is taken first, because rx_push drains before
anything else happens (R106); else the next turn of the agenda; with no turn left, whatever can still move by itself. -/

namespace Sys2Proof.Machine

/-- What `step` has to do: run an instruction in a state, or answer an outcome at once. -/
inductive Move where
  | execute (i : Instr) (s : State)
  | finish (o : StepOutcome)

/-- Whether an instruction is a frame row, which has bytes, and no request of the operation port (R68). -/
def isFrameRow (c : Config) (i : Instr) : Bool := (wireOf c i).isSome

/-- R106, R104: the candidate at the first header of RXBUF: decoded and removed, or discarded if it is no frame. The run has
begun (R220). -/
def State.fetchFrame (s : State) : Option Move :=
  match extractFrame s.rxbuf with
  | none => none
  | some (candidate, rest) =>
    match decode s.cfg candidate with
    | .ok (i, _) => some (.execute i { s.beginRun with rxbuf := rest })
    | .error _ => some (.finish (.next { s.beginRun with rxbuf := resync s.cfg.resyncPolicy s.rxbuf rest }))

/-- R231, R195: with no turn left, an operation in progress goes on, then the host's timers elapse; else nothing moves (R233). -/
def State.restTurn (s : State) : State :=
  if s.busy.isSome then blockStep s.beginRun
  else if s.pending.isSome then s.beginRun.responseTimeout
  else if s.verifies.isEmpty then s
  else s.beginRun.verifyTimeout 0

/-- R198, R232: one turn of the agenda; it is an event of the run (R220). -/
def State.takeTurn (t : Turn) (s : State) : Move :=
  match t with
  | .request i => if isFrameRow s.cfg i then .finish (.fault .frameOnOperationPort) else .execute i (s.enterRun i)
  | .block => .finish (.next (blockStep s.beginRun))
  | .responseTimeout => .finish (.next s.beginRun.responseTimeout)
  | .verifyTimeout index => .finish (.next (s.beginRun.verifyTimeout index))

/-- The next move of the machine. -/
def State.nextMove (s : State) : Move :=
  match s.fetchFrame with
  | some m => m
  | none =>
    match s.agenda with
    | t :: rest => State.takeTurn t { s with agenda := rest }
    | [] => .finish (.next s.restTurn)

/-- Puts the bytes of a frame at the front of RXBUF, where the next fetch finds them. -/
def State.placeFrame (bs : List Byte) (s : State) : State := { s with rxbuf := bs ++ s.rxbuf }

end Sys2Proof.Machine
end

