-- ==== Sys2Proof/Machine/Decoding.lean ====
section
/-! DEFINITION. The meanings of the codec's decode operations (R100 to R110). All but rx_push are pure. -/

namespace Sys2Proof.Machine

/-- parse_frame (R100). -/
def execParseFrame (bytes : List Byte) (s : State) : StepOutcome :=
  match parseFrame bytes with
  | some f => .next (s.giveResult (.frame f))
  | none => .next (s.giveResult .notParseable)

/-- Frame.checksum_valid (R101): a fixed field of the immutable Frame. -/
def execFrameChecksumValid (f : Frame) (s : State) : StepOutcome := .next (s.giveResult (.flag f.checksumValid))

/-- Frame.is_success (R102). -/
def execFrameIsSuccess (f : Frame) (s : State) : StepOutcome := .next (s.giveResult (.flag (isSuccess f)))

/-- Frame.response_code (R103). -/
def execFrameResponseCode (f : Frame) (s : State) : StepOutcome := .next (s.giveResult (.optByte (responseCode f)))

/-- find_frame_end (R104). -/
def execFindFrameEnd (buf : List Byte) (s : State) : StepOutcome :=
  match findFrameEnd buf with
  | some e => .next (s.giveResult (.found e))
  | none => .next (s.giveResult .notFound)

/-- extract_frame (R105). -/
def execExtractFrame (buf : List Byte) (s : State) : StepOutcome :=
  match extractFrame buf with
  | some (candidate, rest) => .next (s.giveResult (.extracted candidate rest))
  | none => .next (s.giveResult .incomplete)

/-- rx_push (R106). -/
def execRxPush (chunk : List Byte) (s : State) : StepOutcome :=
  match s.rxPush chunk with
  | .ok s' => .next s'
  | .error r => .refused r

/-- parse_tag_poll_data (R107). -/
def execParseTagPollData (f : Frame) (s : State) : StepOutcome :=
  match parseTagPoll s.cfg f with
  | some d => .next (s.giveResult (.tagPoll d))
  | none => .next (s.giveResult .noData)

/-- TagPollData.epc_hex (R108). -/
def execEpcHex (d : TagPollData) (s : State) : StepOutcome := .next (s.giveResult (.text (epcHex d)))

/-- TagPollData.is_reader_tag (R109). -/
def execIsReaderTag (d : TagPollData) (s : State) : StepOutcome := .next (s.giveResult (.flag (isReaderTag s.cfg d)))

/-- response_message (R110). -/
def execResponseMessage (code : Byte) (s : State) : StepOutcome :=
  .next (s.giveResult (.message (responseMessage s.cfg code)))

end Sys2Proof.Machine
end

