-- ==== Sys2Proof/Machine/Encoding.lean ====
section
/-! DEFINITION. The meanings of the codec's encode operations (R80 to R90): pure, the result goes to the caller. -/

namespace Sys2Proof.Machine

/-- checksum (R80); for more than 65535 parameter bytes the spec states no value (log 15). -/
def execChecksum (t c : Byte) (p : List Byte) (s : State) : StepOutcome :=
  if p.length ≤ maxParams then .next (s.giveResult (.byte (frameChecksum t c p)))
  else .next { s.giveResult (.byte (Config.freeChecksum s.draws)) with draws := s.draws + 1 }

/-- encode_frame (R89). -/
def execEncodeFrame (t : FrameType) (c : Byte) (p : List Byte) (s : State) : StepOutcome :=
  .next (s.giveBuilt (encodeFrame t c p))

/-- build_command (R81). -/
def execBuildCommand (command : Byte) (p : List Byte) (s : State) : StepOutcome :=
  .next (s.giveBuilt (buildCommand command p))

/-- build_single_poll (R82). -/
def execBuildSinglePoll (s : State) : StepOutcome := .next (s.giveBuilt (buildSinglePoll s.cfg))

/-- build_start_poll (R83). -/
def execBuildStartPoll (count : Int) (s : State) : StepOutcome := .next (s.giveBuilt (buildStartPoll s.cfg count))

/-- build_stop_poll (R84). -/
def execBuildStopPoll (s : State) : StepOutcome := .next (s.giveBuilt (buildStopPoll s.cfg))

/-- build_write_epc (R85). -/
def execBuildWriteEpc (password epc : List Byte) (s : State) : StepOutcome :=
  .next (s.giveBuilt (buildWriteEpc s.cfg password epc))

/-- build_lock_tag (R90). -/
def execBuildLockTag (password payload : List Byte) (s : State) : StepOutcome :=
  .next (s.giveBuilt (buildLockTag s.cfg password payload))

/-- build_set_rf_power (R86). -/
def execBuildSetRfPower (value : Int) (s : State) : StepOutcome := .next (s.giveBuilt (buildSetRfPower s.cfg value))

/-- build_get_rf_power (R87). -/
def execBuildGetRfPower (s : State) : StepOutcome := .next (s.giveBuilt (buildGetRfPower s.cfg))

end Sys2Proof.Machine
end

