-- ==== Sys2Proof/Machine/Frames.lean ====
section
/-! DEFINITION. The meanings of the twelve frame rows. A frame that stands at the first header of RXBUF is taken by the receive
path: its Frame is emitted and dispatched (R106, R111, R161, R162). The fetch removes its bytes (Machine/Agents.lean). -/

namespace Sys2Proof.Machine

/-- FRAME.COMMAND (R65, R100, R111). -/
def execFrameCommand (command : Byte) (p : List Byte) (k : Byte) (s : State) : StepOutcome :=
  takeFrame { frameType := .command, command := command, parameters := p, checksum := k } s

/-- FRAME.RESPONSE (R64, R100, R161). -/
def execFrameResponse (command : Byte) (p : List Byte) (k : Byte) (s : State) : StepOutcome :=
  takeFrame { frameType := .response, command := command, parameters := p, checksum := k } s

/-- FRAME.NOTICE (R100, R162). -/
def execFrameNotice (command : Byte) (p : List Byte) (k : Byte) (s : State) : StepOutcome :=
  takeFrame { frameType := .notice, command := command, parameters := p, checksum := k } s

/-- CMD.SINGLE_POLL (R62, R82, R111). -/
def execCmdSinglePoll (k : Byte) (s : State) : StepOutcome :=
  takeFrame { frameType := .command, command := s.cfg.cmdSinglePoll, parameters := [], checksum := k } s

/-- CMD.START_POLL (R62, R83, R111). -/
def execCmdStartPoll (p : List Byte) (k : Byte) (s : State) : StepOutcome :=
  takeFrame { frameType := .command, command := s.cfg.cmdStartPoll, parameters := p, checksum := k } s

/-- CMD.STOP_POLL (R62, R84, R111). -/
def execCmdStopPoll (k : Byte) (s : State) : StepOutcome :=
  takeFrame { frameType := .command, command := s.cfg.cmdStopPoll, parameters := [], checksum := k } s

/-- CMD.WRITE_EPC (R62, R85, R111). -/
def execCmdWriteEpc (password : List Byte) (bank : Byte) (address words : BitVec 16) (epc : List Byte) (k : Byte)
    (s : State) : StepOutcome :=
  takeFrame
    { frameType := .command, command := s.cfg.cmdWriteEpc
      parameters := writeEpcLayout password bank address words epc, checksum := k } s

/-- CMD.LOCK_TAG (R62, R90, R111). -/
def execCmdLockTag (password payload : List Byte) (k : Byte) (s : State) : StepOutcome :=
  takeFrame { frameType := .command, command := s.cfg.cmdLockTag, parameters := password ++ payload, checksum := k } s

/-- CMD.SET_RF_POWER (R62, R86, R111). -/
def execCmdSetRfPower (p : List Byte) (k : Byte) (s : State) : StepOutcome :=
  takeFrame { frameType := .command, command := s.cfg.cmdSetRfPower, parameters := p, checksum := k } s

/-- CMD.GET_RF_POWER (R62, R87, R111). -/
def execCmdGetRfPower (k : Byte) (s : State) : StepOutcome :=
  takeFrame { frameType := .command, command := s.cfg.cmdGetRfPower, parameters := [], checksum := k } s

/-- NOTICE.TAG_POLL (R63, R107, R162). -/
def execNoticeTagPoll (rssi : Byte) (pc : BitVec 16) (epc later : List Byte) (k : Byte) (s : State) : StepOutcome :=
  takeFrame
    { frameType := .notice, command := s.cfg.cmdPollNotice
      parameters := tagPollLayout rssi pc epc later, checksum := k } s

/-- RESPONSE.SUCCESS (R64, R102, R161). -/
def execResponseSuccess (command : Byte) (later : List Byte) (k : Byte) (s : State) : StepOutcome :=
  takeFrame { frameType := .response, command := command, parameters := rcSuccess :: later, checksum := k } s

end Sys2Proof.Machine
end

