-- ==== Sys2Proof/Machine/Orchestrator.lean ====
section
/-! DEFINITION. The meanings of the eight host operations (R163 to R171). -/

namespace Sys2Proof.Machine

/-- host.start_polling (R163); the call has no count, so the builder's default 0 is sent (log 16). -/
def execHostStartPolling (s : State) : StepOutcome := hostSetPolling .startPolling true (buildStartPoll s.cfg 0) s

/-- host.stop_polling (R163). -/
def execHostStopPolling (s : State) : StepOutcome := hostSetPolling .stopPolling false (buildStopPoll s.cfg) s

/-- host.set_rf_power (R164). -/
def execHostSetRfPower (value : Int) (s : State) : StepOutcome :=
  hostCommand .setRfPower s.cfg.cmdSetRfPower (buildSetRfPower s.cfg value) s

/-- host.get_rf_power (R164). -/
def execHostGetRfPower (s : State) : StepOutcome :=
  hostCommand .getRfPower s.cfg.cmdGetRfPower (buildGetRfPower s.cfg) s

/-- host.write_epc (R165): with the stored PASSWORD. -/
def execHostWriteEpc (epc : List Byte) (s : State) : StepOutcome :=
  hostCommand .writeEpc s.cfg.cmdWriteEpc (buildWriteEpc s.cfg s.password epc) s

/-- host.lock_tag (R166). -/
def execHostLockTag (password payload : List Byte) (s : State) : StepOutcome :=
  hostCommand .lockTag s.cfg.cmdLockTag (buildLockTag s.cfg password payload) s

/-- host.verify_epc (R167): subscribes to POLL_OUT; sends nothing. -/
def execHostVerifyEpc (expected : List Byte) (timeout : Nat) (s : State) : StepOutcome :=
  .next { s with verifies := s.verifies ++ [{ expected := expected, timeout := timeout }] }

/-- host.single_poll (R171). -/
def execHostSinglePoll (s : State) : StepOutcome :=
  hostCommand .singlePoll s.cfg.cmdSinglePoll (buildSinglePoll s.cfg) s

end Sys2Proof.Machine
end

