-- ==== Sys2Proof/Machine/Dispatch.lean ====
section
/-! DEFINITION. One arm per row of spec/opcode_table.json, each one call of that row's meaning. -/

namespace Sys2Proof.Machine

def exec (i : Instr) (s : State) : Host.Outcome State Fault Refusal :=
  match i with
  -- frames (R50 to R67)
  | .frameCommand c p k => Sys2Proof.Machine.execFrameCommand c p k s
  | .frameResponse c p k => Sys2Proof.Machine.execFrameResponse c p k s
  | .frameNotice c p k => Sys2Proof.Machine.execFrameNotice c p k s
  | .cmdSinglePoll k => Sys2Proof.Machine.execCmdSinglePoll k s
  | .cmdStartPoll p k => Sys2Proof.Machine.execCmdStartPoll p k s
  | .cmdStopPoll k => Sys2Proof.Machine.execCmdStopPoll k s
  | .cmdWriteEpc w b a n e k => Sys2Proof.Machine.execCmdWriteEpc w b a n e k s
  | .cmdLockTag w l k => Sys2Proof.Machine.execCmdLockTag w l k s
  | .cmdSetRfPower p k => Sys2Proof.Machine.execCmdSetRfPower p k s
  | .cmdGetRfPower k => Sys2Proof.Machine.execCmdGetRfPower k s
  | .noticeTagPoll r q e l k => Sys2Proof.Machine.execNoticeTagPoll r q e l k s
  | .responseSuccess c l k => Sys2Proof.Machine.execResponseSuccess c l k s
  -- codec, encode side (R80 to R90)
  | .checksum t c p => Sys2Proof.Machine.execChecksum t c p s
  | .encodeFrame t c p => Sys2Proof.Machine.execEncodeFrame t c p s
  | .buildCommand c p => Sys2Proof.Machine.execBuildCommand c p s
  | .buildSinglePoll => Sys2Proof.Machine.execBuildSinglePoll s
  | .buildStartPoll n => Sys2Proof.Machine.execBuildStartPoll n s
  | .buildStopPoll => Sys2Proof.Machine.execBuildStopPoll s
  | .buildWriteEpc w e => Sys2Proof.Machine.execBuildWriteEpc w e s
  | .buildLockTag w l => Sys2Proof.Machine.execBuildLockTag w l s
  | .buildSetRfPower v => Sys2Proof.Machine.execBuildSetRfPower v s
  | .buildGetRfPower => Sys2Proof.Machine.execBuildGetRfPower s
  -- codec, decode side (R100 to R110)
  | .parseFrame b => Sys2Proof.Machine.execParseFrame b s
  | .frameChecksumValid f => Sys2Proof.Machine.execFrameChecksumValid f s
  | .frameIsSuccess f => Sys2Proof.Machine.execFrameIsSuccess f s
  | .frameResponseCode f => Sys2Proof.Machine.execFrameResponseCode f s
  | .findFrameEnd b => Sys2Proof.Machine.execFindFrameEnd b s
  | .extractFrame b => Sys2Proof.Machine.execExtractFrame b s
  | .rxPush b => Sys2Proof.Machine.execRxPush b s
  | .parseTagPollData f => Sys2Proof.Machine.execParseTagPollData f s
  | .epcHex d => Sys2Proof.Machine.execEpcHex d s
  | .isReaderTag d => Sys2Proof.Machine.execIsReaderTag d s
  | .responseMessage c => Sys2Proof.Machine.execResponseMessage c s
  -- serial transport (R131 to R134)
  | .connect p r => Sys2Proof.Machine.execConnect p r s
  | .disconnect => Sys2Proof.Machine.execDisconnect s
  | .write b => Sys2Proof.Machine.execWrite b s
  -- environment events (R135, R136, R220)
  | .envRxChunk b => Sys2Proof.Machine.execEnvRxChunk b s
  | .envHwError m => Sys2Proof.Machine.execEnvHwError m s
  | .reset => Sys2Proof.Machine.execReset s
  -- host operations (R163 to R171)
  | .hostStartPolling => Sys2Proof.Machine.execHostStartPolling s
  | .hostStopPolling => Sys2Proof.Machine.execHostStopPolling s
  | .hostSetRfPower v => Sys2Proof.Machine.execHostSetRfPower v s
  | .hostGetRfPower => Sys2Proof.Machine.execHostGetRfPower s
  | .hostWriteEpc e => Sys2Proof.Machine.execHostWriteEpc e s
  | .hostLockTag w l => Sys2Proof.Machine.execHostLockTag w l s
  | .hostVerifyEpc e t => Sys2Proof.Machine.execHostVerifyEpc e t s
  | .hostSinglePoll => Sys2Proof.Machine.execHostSinglePoll s

end Sys2Proof.Machine
end

