-- ==== Sys2Proof/Machine/Step.lean ====
section
/-! DEFINITION. One step of the machine: the next move (Machine/Agents.lean) and, where it runs an instruction, its meaning. -/

namespace Sys2Proof.Machine

/-- R232: one step. -/
def step (s : State) : Host.Outcome State Fault Refusal :=
  match s.nextMove with
  | .execute i s' => exec i s'
  | .finish o => o

/-- `s` with the frame of a table word at the front of RXBUF. A frame the line delivers whole stands there between `RxAppend`
and its extraction (R106); log 23 says how a program comes to run. -/
def State.withFetchWord (s : State) (nbits w : Nat) : State := s.placeFrame (tableWordBytes nbits w)

end Sys2Proof.Machine
end

