-- ==== Sys2Proof/Safety.lean ====
section
/-! DEFINITION. What claims speak of: the invariants of R26 in parts, the views that frames compare, and what a run's end and a
subscriber are (R233, R137). -/

namespace Sys2Proof.Safety

open Sys2Proof.Machine

/-- The steps K2 to K5 and F1 of a connect in progress (R131, R132). -/
def connectPhase : Option Phase → Bool
  | some .k2 => true
  | some .k3 => true
  | some .k4 => true
  | some .k5 => true
  | some (.f1 _) => true
  | some .d2 => false
  | some .d3 => false
  | some .d4 => false
  | some .d5 => false
  | none => false

/-- The steps D2 to D5 of a disconnect in progress (R133). -/
def disconnectPhase : Option Phase → Bool
  | some .d2 => true
  | some .d3 => true
  | some .d4 => true
  | some .d5 => true
  | some .k2 => false
  | some .k3 => false
  | some .k4 => false
  | some .k5 => false
  | some (.f1 _) => false
  | none => false

/-- R26 (a) to (g), R18, R137, and what they rest on: which phases go with which status and levels (R131, R133). -/
structure TransportInv (s : State) : Prop where
  /-- R26 (a) -/
  message_iff : s.conn.errorMessage.isSome = true ↔ s.conn.status = .error
  /-- R26 (b) -/
  named : s.conn.status = .connecting ∨ s.conn.status = .connected →
    s.conn.portName.isSome = true ∧ s.conn.baudRate.isSome = true
  /-- R26 (c) -/
  enabled_iff : s.conn.moduleEnabled = true ↔ s.en = .asserted
  /-- R26 (d) -/
  disconnected_off : s.conn.status = .disconnected →
    s.en = .deasserted ∧ s.portOpen = false ∧ s.readerActive = false
  /-- R26 (e) -/
  error_off : s.conn.status = .error → s.cfg.hwerrEnPolicy = .deassert →
    s.en = .deasserted ∧ s.portOpen = false ∧ s.readerActive = false
  /-- R26 (f), first half -/
  reader_port : s.readerActive = true → s.portOpen = true
  /-- R26 (f), second half -/
  reader_iff : s.readerActive = true ↔
    s.conn.status = .connected ∧ s.busy ≠ some .d4 ∧ s.busy ≠ some .d5
  /-- R26 (g) -/
  asserted_status : s.cfg.hwerrEnPolicy = .deassert → s.en = .asserted →
    s.conn.status = .connecting ∨ s.conn.status = .connected
  /-- R18 -/
  port_iff : s.cfg.hwerrEnPolicy = .deassert → s.busy = none → (s.portOpen = true ↔ s.conn.status = .connected)
  /-- R130, R131: Connecting is the connect in progress -/
  connecting_iff : s.conn.status = .connecting ↔ connectPhase s.busy = true
  /-- R133: a disconnect in progress still reads Connected -/
  disconnecting : disconnectPhase s.busy = true → s.conn.status = .connected
  /-- R131: EN is deasserted before K3, asserted after it -/
  en_before_k3 : s.busy = some .k2 ∨ s.busy = some .k3 → s.en = .deasserted
  en_after_k3 : s.busy = some .k4 ∨ s.busy = some .k5 → s.en = .asserted
  /-- R131, R132: the port is open after K2, and in F1 where EN has been asserted -/
  asserted_open : connectPhase s.busy = true → s.en = .asserted → s.portOpen = true
  port_after_k2 : s.busy = some .k3 ∨ s.busy = some .k4 ∨ s.busy = some .k5 → s.portOpen = true
  /-- R133, R223: EN is deasserted from D1 on, the port is open until D4 -/
  en_after_d1 : disconnectPhase s.busy = true → s.en = .deasserted
  port_until_d4 : s.busy = some .d2 ∨ s.busy = some .d3 ∨ s.busy = some .d4 → s.portOpen = true
  port_after_d4 : s.busy = some .d5 → s.portOpen = false
  /-- R131 (end state): Connected with no operation in progress has EN asserted and the port open -/
  connected_on : s.conn.status = .connected → s.busy = none → s.en = .asserted ∧ s.portOpen = true
  /-- R137: the last event of STATE_OUT is the current CONN -/
  latest_conn : s.conn = s.stateOut.getLastD ConnectionState.reset
  /-- R30: the last entry of EN's history is its level -/
  latest_en : s.en = s.enOut.getLastD .deasserted

/-- R26 (h): RXBUF holds no complete candidate. -/
def RxbufDrained (s : State) : Prop := extractFrame s.rxbuf = none

/-- R160, R168, R169: a command waits and polling is on only while the link is up; PASSWORD has 4 bytes. -/
structure HostInv (s : State) : Prop where
  slot_connected : s.pending.isSome = true ∨ s.polling = true → s.conn.status = .connected ∧ s.busy = none
  password_length : s.password.length = passwordLen

/-- Every invariant of the model. -/
structure Inv (s : State) : Prop where
  transport : TransportInv s
  drained : RxbufDrained s
  host : HostInv s

/-- Everything of the transport (R12 to R19, R30): CONN, EN, PORT_OPEN, READER_ACTIVE, the operation in progress, STATE_OUT, the
history of EN, TX and the questions asked. -/
def sameTransport (s t : State) : Prop :=
  t.conn = s.conn ∧ t.en = s.en ∧ t.portOpen = s.portOpen ∧ t.readerActive = s.readerActive ∧ t.busy = s.busy
    ∧ t.stateOut = s.stateOut ∧ t.enOut = s.enOut ∧ t.tx = s.tx ∧ t.asked = s.asked

/-- Everything of the host (R160, R167). -/
def sameHost (s t : State) : Prop :=
  t.pending = s.pending ∧ t.polling = s.polling ∧ t.password = s.password ∧ t.pollOut = s.pollOut
    ∧ t.verifies = s.verifies

/-- The configuration and the inputs still to come. -/
def sameInputs (s t : State) : Prop := t.cfg = s.cfg ∧ t.agenda = s.agenda ∧ t.answers = s.answers

/-- R30: every stream of `t` continues that of `s`. -/
def streamsGrow (s t : State) : Prop :=
  s.tx <+: t.tx ∧ s.byteOut <+: t.byteOut ∧ s.frameOut <+: t.frameOut ∧ s.stateOut <+: t.stateOut
    ∧ s.enOut <+: t.enOut ∧ s.asked <+: t.asked ∧ s.results <+: t.results ∧ s.pollOut <+: t.pollOut

/-- R36: a chunk fits in RXBUF. -/
def chunkFits (chunk : List Byte) (s : State) : Prop :=
  ∀ cap, s.cfg.rxbufCap = some cap → s.rxbuf.length + chunk.length ≤ cap

/-- R233: quiescent for certain. -/
def quiescent (s : State) : Prop :=
  (s.conn.status = .disconnected ∨ s.conn.status = .error) ∧ s.busy = none

/-- R137, U18: what a subscriber of STATE_OUT that joined when `since` events had been emitted may have received by now. -/
def mayReceive (since : Nat) (got : List ConnectionState) (s : State) : Prop := got.Sublist (s.stateOut.drop since)

end Sys2Proof.Safety
end

