-- ==== Sys2Proof/Certificates/Slice0/Obligations.lean ====
section
/-! DEFINITION. The statements for the provers, from the numbered rules of spec/. A statement that gives the next state as one
record says the result and the frame at once: what the record does not name is unchanged. -/

open Sys2Proof Sys2Proof.Machine Sys2Proof.Safety

-- ## Encoding (30_encoding.md)

/-- R50, R62 to R64, R67: words written out from the spec's layouts decode to their rows; R65: bad ones are rejected by name. -/
def Obligations.SpecWordsDecode : Prop :=
  decode Config.reference [0xBB, 0x00, 0x22, 0x00, 0x00, 0x22, 0x7E] = .ok (.cmdSinglePoll 0x22, [])
  ∧ decode Config.reference [0xBB, 0x00, 0x27, 0x00, 0x03, 0x22, 0x27, 0x10, 0x83, 0x7E]
      = .ok (.cmdStartPoll [0x22, 0x27, 0x10] 0x83, [])
  ∧ decode Config.reference [0xBB, 0x00, 0x82, 0x00, 0x07, 0x00, 0x00, 0xFF, 0xFF, 0x02, 0x00, 0x80, 0x09, 0x7E]
      = .ok (.cmdLockTag [0x00, 0x00, 0xFF, 0xFF] [0x02, 0x00, 0x80] 0x09, [])
  ∧ decode Config.reference [0xBB, 0x00, 0x7E, 0x00, 0x01, 0x7E, 0xFD, 0x7E] = .ok (.frameCommand 0x7E [0x7E] 0xFD, [])
  ∧ decode Config.reference [0xBB, 0x01, 0x22, 0x00, 0x01, 0x10, 0x34, 0x7E, 0xBB, 0x02]
      = .ok (.responseSuccess 0x22 [] 0x34, [0xBB, 0x02])
  ∧ decode Config.reference [0xBB, 0x01, 0x49, 0x00, 0x01, 0x16, 0x61, 0x7E] = .ok (.frameResponse 0x49 [0x16] 0x61, [])
  ∧ decode Config.reference
      [0xBB, 0x02, 0x27, 0x00, 0x11, 0xC8, 0x30, 0x00, 0x53, 0x56, 0x00, 0x01, 0x02, 0x03, 0x04, 0x05, 0x06, 0x07, 0x08,
        0x09, 0xAB, 0xCD, 0x80, 0x7E]
      = .ok (.noticeTagPoll 0xC8 0x3000
          [0x53, 0x56, 0x00, 0x01, 0x02, 0x03, 0x04, 0x05, 0x06, 0x07, 0x08, 0x09] [0xAB, 0xCD] 0x80, [])
  ∧ decode Config.reference [0xBB, 0x02, 0x22, 0x00, 0x01, 0x10, 0x35, 0x7E] = .ok (.frameNotice 0x22 [0x10] 0x35, [])
  ∧ decode Config.reference [0xBB, 0x03, 0x22, 0x00, 0x00, 0x25, 0x7E] = .error .badFrameType
  ∧ decode Config.reference [0xBB, 0x01, 0x22, 0x00, 0x01, 0x10, 0x34, 0x7F] = .error .badEnd

/-- R50, R55, R67: every well-formed frame row, at every value of its fields and under every configuration, is what the decoder
reads from its encoding, and the bytes after it are left. -/
def Obligations.DecodeOfEncode : Prop :=
  ∀ (c : Config) (i : Instr) (rest : List Byte), wellFormed c i = true → isFrameRow c i = true →
    ∃ bs, encode c i = some bs ∧ decode c (bs ++ rest) = .ok (i, rest)

/-- R50, R67: what the decoder reads is a well-formed frame row, and its encoding is exactly the bytes consumed, so no bit of
them is dropped. -/
def Obligations.EncodeOfDecode : Prop :=
  ∀ (c : Config) (b : List Byte) (i : Instr) (rest : List Byte), decode c b = .ok (i, rest) →
    wellFormed c i = true ∧ ∃ bs, encode c i = some bs ∧ b = bs ++ rest

-- ## Codec, encode side (40_codec_encode.md)

/-- R80: the checksum, for every type byte, command byte and up to 65535 parameter bytes. -/
def Obligations.ChecksumResult : Prop :=
  ∀ (t c : Byte) (p : List Byte) (s : State), p.length ≤ 65535 →
    exec (.checksum t c p) s = .next { s with
      results := s.results ++ [.byte (BitVec.ofNat 8
        ((t.toNat + c.toNat + p.length / 256 % 256 + p.length % 256 + (p.map BitVec.toNat).sum) % 256))] }

/-- R81, R89 (R50, R57): the two generic encoders on up to 65535 parameter bytes: header, type, command, length high byte first,
parameters, checksum, end. -/
def Obligations.EncodersResult : Prop :=
  ∀ (t : FrameType) (c : Byte) (p : List Byte) (s : State), p.length ≤ 65535 →
    exec (.buildCommand c p) s = .next { s with
      results := s.results ++ [.bytes
        ([0xBB, 0x00, c, BitVec.ofNat 8 (p.length / 256), BitVec.ofNat 8 (p.length % 256)] ++ p
          ++ [BitVec.ofNat 8 (c.toNat + p.length / 256 + p.length % 256 + (p.map BitVec.toNat).sum), 0x7E])] }
    ∧ exec (.encodeFrame t c p) s = .next { s with
      results := s.results ++ [.bytes
        ([0xBB, frameTypeByte t, c, hi8 p.length, lo8 p.length] ++ p ++ [frameChecksum (frameTypeByte t) c p, 0x7E])] }

/-- Beyond 65535 parameter bytes: `build_command` reports an ArgumentError (R81, the spec's decision D12), `encode_frame` does as
`build_command` does (the model's choice, log 15), and `checksum`, for which the spec states no value, answers some byte (the
model's choice, log 15). -/
def Obligations.TooLongParameters : Prop :=
  ∀ (t : FrameType) (tb c : Byte) (p : List Byte) (s : State), 65535 < p.length →
    (∃ text, exec (.buildCommand c p) s = .next { s with
      results := s.results ++ [.argumentError .parameters text], draws := s.draws + 1 })
    ∧ (∃ text, exec (.encodeFrame t c p) s = .next { s with
      results := s.results ++ [.argumentError .parameters text], draws := s.draws + 1 })
    ∧ ∃ b, exec (.checksum tb c p) s = .next { s with results := s.results ++ [.byte b], draws := s.draws + 1 }

/-- R69: each of the seven builders validates its arguments and then does exactly what one `build_command` does, with the
command byte and parameters of R62; arguments that are not valid give an ArgumentError and no bytes. -/
def Obligations.BuildersExpand : Prop :=
  ∀ (s : State) (count value : Int) (password epc payload : List Byte),
    exec .buildSinglePoll s = exec (.buildCommand s.cfg.cmdSinglePoll []) s
    ∧ (0 ≤ count ∧ count ≤ 65535 → exec (.buildStartPoll count) s
        = exec (.buildCommand s.cfg.cmdStartPoll (applyParamFn s.cfg.startPollParams count.toNat)) s)
    ∧ exec .buildStopPoll s = exec (.buildCommand s.cfg.cmdStopPoll []) s
    ∧ (password.length = 4 → epc.length = 12 → exec (.buildWriteEpc password epc) s
        = exec (.buildCommand s.cfg.cmdWriteEpc
            (password ++ [s.cfg.membankEpc, hi8 s.cfg.writeStartAddr.toNat, lo8 s.cfg.writeStartAddr.toNat, 0x00, 0x06]
              ++ epc)) s)
    ∧ (password.length = 4 → payload.length = 3 → exec (.buildLockTag password payload) s
        = exec (.buildCommand s.cfg.cmdLockTag (password ++ payload)) s)
    ∧ (0 ≤ value ∧ value ≤ 30 → exec (.buildSetRfPower value) s
        = exec (.buildCommand s.cfg.cmdSetRfPower (applyParamFn s.cfg.powerEncode value.toNat)) s)
    ∧ exec .buildGetRfPower s = exec (.buildCommand s.cfg.cmdGetRfPower []) s
    ∧ ∀ i, (i = .buildStartPoll count ∧ (count < 0 ∨ 65535 < count))
        ∨ (i = .buildWriteEpc password epc ∧ (password.length ≠ 4 ∨ epc.length ≠ 12))
        ∨ (i = .buildLockTag password payload ∧ (password.length ≠ 4 ∨ payload.length ≠ 3))
        ∨ (i = .buildSetRfPower value ∧ (value < 0 ∨ 30 < value)) →
      ∃ which text, exec i s = .next { s with
        results := s.results ++ [.argumentError which text], draws := s.draws + 1 }

/-- R82, R84, R87: the three builders without arguments give the seven bytes `BB 00 cc 00 00 cc 7E`, cc the configured code. -/
def Obligations.FixedBuildersResult : Prop :=
  ∀ s : State,
    exec .buildSinglePoll s = .next { s with
      results := s.results ++ [.bytes [0xBB, 0x00, s.cfg.cmdSinglePoll, 0x00, 0x00, s.cfg.cmdSinglePoll, 0x7E]] }
    ∧ exec .buildStopPoll s = .next { s with
      results := s.results ++ [.bytes [0xBB, 0x00, s.cfg.cmdStopPoll, 0x00, 0x00, s.cfg.cmdStopPoll, 0x7E]] }
    ∧ exec .buildGetRfPower s = .next { s with
      results := s.results ++ [.bytes [0xBB, 0x00, s.cfg.cmdGetRfPower, 0x00, 0x00, s.cfg.cmdGetRfPower, 0x7E]] }

/-- R83: `build_start_poll` for every count 0..65535, 0 and 65535 included; any other count is an ArgumentError. Where the
configuration's layout is too long for a frame, R81's ArgumentError is passed on. -/
def Obligations.BuildStartPollResult : Prop :=
  ∀ (count : Int) (s : State),
    (0 ≤ count ∧ count ≤ 65535 → (applyParamFn s.cfg.startPollParams count.toNat).length ≤ 65535 →
      exec (.buildStartPoll count) s = .next { s with
        results := s.results ++ [.bytes
          (encodeFrameBytes .command s.cfg.cmdStartPoll (applyParamFn s.cfg.startPollParams count.toNat))] })
    ∧ (0 ≤ count ∧ count ≤ 65535 → 65535 < (applyParamFn s.cfg.startPollParams count.toNat).length →
      ∃ text, exec (.buildStartPoll count) s = .next { s with
        results := s.results ++ [.argumentError .parameters text], draws := s.draws + 1 })
    ∧ (count < 0 ∨ 65535 < count →
      ∃ text, exec (.buildStartPoll count) s = .next { s with
        results := s.results ++ [.argumentError .count text], draws := s.draws + 1 })

/-- R85 (R88): `build_write_epc`: password, bank, start address, word count 6, EPC; a password of other than 4 bytes is
reported first, then an EPC of other than 12. -/
def Obligations.BuildWriteEpcResult : Prop :=
  ∀ (password epc : List Byte) (s : State),
    (password.length = 4 → epc.length = 12 →
      exec (.buildWriteEpc password epc) s = .next { s with
        results := s.results ++ [.bytes (encodeFrameBytes .command s.cfg.cmdWriteEpc
          (password ++ [s.cfg.membankEpc, hi8 s.cfg.writeStartAddr.toNat, lo8 s.cfg.writeStartAddr.toNat, 0x00, 0x06]
            ++ epc))] })
    ∧ (password.length ≠ 4 →
      ∃ text, exec (.buildWriteEpc password epc) s = .next { s with
        results := s.results ++ [.argumentError .password text], draws := s.draws + 1 })
    ∧ (password.length = 4 → epc.length ≠ 12 →
      ∃ text, exec (.buildWriteEpc password epc) s = .next { s with
        results := s.results ++ [.argumentError .epc text], draws := s.draws + 1 })

/-- R90 (R88): `build_lock_tag`: the password, then the payload. -/
def Obligations.BuildLockTagResult : Prop :=
  ∀ (password payload : List Byte) (s : State),
    (password.length = 4 → payload.length = 3 →
      exec (.buildLockTag password payload) s = .next { s with
        results := s.results ++ [.bytes (encodeFrameBytes .command s.cfg.cmdLockTag (password ++ payload))] })
    ∧ (password.length ≠ 4 →
      ∃ text, exec (.buildLockTag password payload) s = .next { s with
        results := s.results ++ [.argumentError .password text], draws := s.draws + 1 })
    ∧ (password.length = 4 → payload.length ≠ 3 →
      ∃ text, exec (.buildLockTag password payload) s = .next { s with
        results := s.results ++ [.argumentError .lockPayload text], draws := s.draws + 1 })

/-- R86 (C2): `build_set_rf_power` for 0..30; -1 and 31 and everything beyond are rejected, not clamped. -/
def Obligations.BuildSetRfPowerResult : Prop :=
  ∀ (value : Int) (s : State),
    (0 ≤ value ∧ value ≤ 30 → (applyParamFn s.cfg.powerEncode value.toNat).length ≤ 65535 →
      exec (.buildSetRfPower value) s = .next { s with
        results := s.results ++ [.bytes
          (encodeFrameBytes .command s.cfg.cmdSetRfPower (applyParamFn s.cfg.powerEncode value.toNat))] })
    ∧ (0 ≤ value ∧ value ≤ 30 → 65535 < (applyParamFn s.cfg.powerEncode value.toNat).length →
      ∃ text, exec (.buildSetRfPower value) s = .next { s with
        results := s.results ++ [.argumentError .parameters text], draws := s.draws + 1 })
    ∧ (value < 0 ∨ 30 < value →
      ∃ text, exec (.buildSetRfPower value) s = .next { s with
        results := s.results ++ [.argumentError .rfPower text], draws := s.draws + 1 })

-- ## Codec, decode side (41_codec_decode.md)

/-- R100: `parse_frame` on every byte sequence: `not_parseable` exactly in the listed cases, else the Frame with the fields the
rule reads, the checksum recomputed, and `raw_bytes` the frame without what follows it. -/
def Obligations.ParseFrameResult : Prop :=
  ∀ (b : List Byte) (s : State),
    (b.length < 7 ∨ b.getD 0 0 ≠ 0xBB ∨ frameTypeOf (b.getD 1 0) = none
        ∨ b.length < 7 + u16be (b.getD 3 0) (b.getD 4 0) ∨ b.getD (6 + u16be (b.getD 3 0) (b.getD 4 0)) 0 ≠ 0x7E →
      exec (.parseFrame b) s = .next { s with results := s.results ++ [.notParseable] })
    ∧ ∀ ft, 7 ≤ b.length → b.getD 0 0 = 0xBB → frameTypeOf (b.getD 1 0) = some ft →
      7 + u16be (b.getD 3 0) (b.getD 4 0) ≤ b.length → b.getD (6 + u16be (b.getD 3 0) (b.getD 4 0)) 0 = 0x7E →
      exec (.parseFrame b) s = .next { s with
        results := s.results ++ [.frame
          { frameType := ft
            command := b.getD 2 0
            parameters := (b.take (5 + u16be (b.getD 3 0) (b.getD 4 0))).drop 5
            rawBytes := some (b.take (7 + u16be (b.getD 3 0) (b.getD 4 0)))
            checksumValid := b.getD (5 + u16be (b.getD 3 0) (b.getD 4 0)) 0
              == sum8 ((b.take (5 + u16be (b.getD 3 0) (b.getD 4 0))).drop 1) }] }

/-- R101, the law of §8: replacing the checksum byte of a frame by any other byte makes `checksum_valid` false and leaves type,
command and parameters. -/
def Obligations.ChecksumFlip : Prop :=
  ∀ (b : List Byte) (f : Frame) (x : Byte), parseFrame b = some f → f.checksumValid = true →
    x ≠ b.getD (5 + f.parameters.length) 0 →
    ∃ g, parseFrame (b.set (5 + f.parameters.length) x) = some g ∧ g.frameType = f.frameType ∧ g.command = f.command
      ∧ g.parameters = f.parameters ∧ g.checksumValid = false

/-- R101, R102, R103: the derived fields. `is_success` and `response_code` of any Frame (`checksum_valid` plays no part in
them); `checksum_valid` of the Frame that `parse_frame` builds tells whether the received checksum byte is the recomputed
one. -/
def Obligations.FrameFlagsResult : Prop :=
  ∀ (f : Frame) (s : State),
    exec (.frameIsSuccess f) s = .next { s with
      results := s.results ++ [.flag (decide (f.frameType = .response ∧ f.parameters.head? = some 0x10))] }
    ∧ exec (.frameResponseCode f) s = .next { s with
      results := s.results ++ [.optByte (if f.frameType = .response then f.parameters.head? else none)] }
    ∧ exec (.frameChecksumValid f) s = .next { s with results := s.results ++ [.flag f.checksumValid] }
    ∧ ∀ b, parseFrame b = some f →
      f.checksumValid
        = (b.getD (5 + f.parameters.length) 0 == frameChecksum (frameTypeByte f.frameType) f.command f.parameters)

/-- R104: `find_frame_end` on every buffer: no header; a header with fewer than 5 bytes from it; a candidate that does not fit;
else the absolute index of its end byte. `front` is what stands before the first header. -/
def Obligations.FindFrameEndResult : Prop :=
  (∀ (buf : List Byte) (s : State), (0xBB : Byte) ∉ buf →
    exec (.findFrameEnd buf) s = .next { s with results := s.results ++ [.notFound] })
  ∧ ∀ (front tail : List Byte) (s : State), (0xBB : Byte) ∉ front →
    exec (.findFrameEnd (front ++ 0xBB :: tail)) s = .next { s with
      results := s.results ++
        [if tail.length < 4 then .notFound
         else if front.length + tail.length + 1 ≤ front.length + 6 + u16be (tail.getD 2 0) (tail.getD 3 0) then .notFound
         else .found (front.length + 6 + u16be (tail.getD 2 0) (tail.getD 3 0))] }

/-- R105: `extract_frame`: `incomplete` where `find_frame_end` finds nothing; else the bytes from the first header through the
end byte, and the bytes after it; what stands before the header is in neither. -/
def Obligations.ExtractFrameResult : Prop :=
  ∀ (buf : List Byte) (s : State),
    (findFrameEnd buf = none → exec (.extractFrame buf) s = .next { s with results := s.results ++ [.incomplete] })
    ∧ ∀ (front tail : List Byte) (e : Nat), buf = front ++ 0xBB :: tail → (0xBB : Byte) ∉ front →
      findFrameEnd buf = some e →
      exec (.extractFrame buf) s = .next { s with
        results := s.results ++ [.extracted ((0xBB :: tail).take (e + 1 - front.length)) (buf.drop (e + 1))] }

/-- R112 (a), §8 "Round trip": what any builder returns parses to a Command frame with its command, its parameters and a valid
checksum. -/
def Obligations.BuildersRoundTrip : Prop :=
  ∀ (s t : State) (command : Byte) (p password epc payload : List Byte) (count value : Int) (bs : List Byte),
    ∀ x ∈ [(Instr.buildCommand command p, command, p),
        (.buildSinglePoll, s.cfg.cmdSinglePoll, []),
        (.buildStartPoll count, s.cfg.cmdStartPoll, applyParamFn s.cfg.startPollParams count.toNat),
        (.buildStopPoll, s.cfg.cmdStopPoll, []),
        (.buildWriteEpc password epc, s.cfg.cmdWriteEpc,
          password ++ [s.cfg.membankEpc, hi8 s.cfg.writeStartAddr.toNat, lo8 s.cfg.writeStartAddr.toNat, 0x00, 0x06] ++ epc),
        (.buildLockTag password payload, s.cfg.cmdLockTag, password ++ payload),
        (.buildSetRfPower value, s.cfg.cmdSetRfPower, applyParamFn s.cfg.powerEncode value.toNat),
        (.buildGetRfPower, s.cfg.cmdGetRfPower, [])],
      exec x.1 s = .next t → t.results = s.results ++ [.bytes bs] →
        parseFrame bs = some
          { frameType := .command, command := x.2.1, parameters := x.2.2, rawBytes := some bs, checksumValid := true }

/-- R106, R36: `rx_push` completes whenever the chunk fits, leaves no complete candidate, only removes bytes from the front, and
emits only Frames that parse, and nothing on BYTE_OUT; a chunk that does not fit is refused. -/
def Obligations.RxPushDrains : Prop :=
  ∀ (chunk : List Byte) (s : State),
    (chunkFits chunk s →
      ∃ t fs, exec (.rxPush chunk) s = .next t ∧ extractFrame t.rxbuf = none ∧ t.rxbuf <:+ s.rxbuf ++ chunk
        ∧ t.frameOut = s.frameOut ++ fs ∧ (∀ f ∈ fs, ∃ b, parseFrame b = some f) ∧ t.byteOut = s.byteOut)
    ∧ (¬ chunkFits chunk s → exec (.rxPush chunk) s = .refused .rxbufOverflow)

/-- R106: the loop of `rx_push`, one turn at a time: without a complete candidate the chunk is appended and that is all; a
candidate that is a frame is taken out, its row runs, and the loop goes on; one that is no frame is discarded, and the loop goes
on: under `drop_span` with what stands after the candidate, under `drop_header_byte` with everything after the first header. -/
def Obligations.RxPushLoop : Prop :=
  ∀ (chunk : List Byte) (s : State), chunkFits chunk s →
    (extractFrame (s.rxbuf ++ chunk) = none → exec (.rxPush chunk) s = .next { s with rxbuf := s.rxbuf ++ chunk })
    ∧ ∀ candidate rest, extractFrame (s.rxbuf ++ chunk) = some (candidate, rest) →
      (∀ i tail, decode s.cfg candidate = .ok (i, tail) →
        ∃ t, exec i { s with rxbuf := rest } = .next t ∧ exec (.rxPush chunk) s = exec (.rxPush []) t)
      ∧ (∀ reason, decode s.cfg candidate = .error reason →
        (s.cfg.resyncPolicy = .dropSpan → exec (.rxPush chunk) s = exec (.rxPush []) { s with rxbuf := rest })
        ∧ (s.cfg.resyncPolicy = .dropHeaderByte →
          ∀ front tail, s.rxbuf ++ chunk = front ++ 0xBB :: tail → (0xBB : Byte) ∉ front →
            exec (.rxPush chunk) s = exec (.rxPush []) { s with rxbuf := tail }))

/-- R112 (c), §8 "Stream re-assembly": a frame split at any offset is emitted once, after the second chunk. -/
def Obligations.SplitFrameReassembles : Prop :=
  ∀ (b : List Byte) (f : Frame) (k : Nat) (s : State), parseFrame b = some f → f.rawBytes = some b →
    0 < k → k < b.length → s.rxbuf = [] → chunkFits b s →
    ∃ u, exec (.rxPush (b.take k)) s = .next { s with rxbuf := b.take k }
      ∧ exec (.rxPush (b.drop k)) { s with rxbuf := b.take k } = .next u
      ∧ u.frameOut = s.frameOut ++ [f] ∧ u.rxbuf = []

/-- R112 (d), §8 "Multi-frame chunk": two frames in one chunk are emitted, in order. -/
def Obligations.TwoFramesInOneChunk : Prop :=
  ∀ (b₁ b₂ : List Byte) (f₁ f₂ : Frame) (s : State), parseFrame b₁ = some f₁ → f₁.rawBytes = some b₁ →
    parseFrame b₂ = some f₂ → f₂.rawBytes = some b₂ → s.rxbuf = [] → chunkFits (b₁ ++ b₂) s →
    ∃ t, exec (.rxPush (b₁ ++ b₂)) s = .next t ∧ t.frameOut = s.frameOut ++ [f₁, f₂] ∧ t.rxbuf = []

/-- R112 (e), §8 "Garbage prefix": bytes without a header before a frame do not disturb it and are gone with it. -/
def Obligations.GarbageBeforeFrame : Prop :=
  ∀ (g b : List Byte) (f : Frame) (s : State), (0xBB : Byte) ∉ g → parseFrame b = some f → f.rawBytes = some b →
    s.rxbuf = [] → chunkFits (g ++ b) s →
    ∃ t, exec (.rxPush (g ++ b)) s = .next t ∧ t.frameOut = s.frameOut ++ [f] ∧ t.rxbuf = []

/-- R107 (C1): `parse_tag_poll_data`: data exactly for a Notice with the poll command and at least 15 parameter bytes. -/
def Obligations.ParseTagPollResult : Prop :=
  ∀ (f : Frame) (s : State),
    (f.frameType = .notice ∧ f.command = s.cfg.cmdPollNotice ∧ 15 ≤ f.parameters.length →
      exec (.parseTagPollData f) s = .next { s with
        results := s.results ++ [.tagPoll
          { rssi := f.parameters.getD 0 0
            pc := BitVec.ofNat 16 (256 * (f.parameters.getD 1 0).toNat + (f.parameters.getD 2 0).toNat)
            epcBytes := (f.parameters.drop 3).take 12 }] })
    ∧ (¬ (f.frameType = .notice ∧ f.command = s.cfg.cmdPollNotice ∧ 15 ≤ f.parameters.length) →
      exec (.parseTagPollData f) s = .next { s with results := s.results ++ [.noData] })

/-- R108: `epc_hex` is 24 digits, digit 2k and 2k+1 the high and low nibble of byte k, in uppercase. -/
def Obligations.EpcHexResult : Prop :=
  ∀ (d : TagPollData) (s : State), d.epcBytes.length = 12 →
    ∃ digits : List Char, exec (.epcHex d) s = .next { s with results := s.results ++ [.text (String.ofList digits)] }
      ∧ digits.length = 24
      ∧ ∀ k, k < 12 →
        digits.getD (2 * k) ' ' = "0123456789ABCDEF".toList.getD ((d.epcBytes.getD k 0).toNat / 16) ' '
        ∧ digits.getD (2 * k + 1) ' ' = "0123456789ABCDEF".toList.getD ((d.epcBytes.getD k 0).toNat % 16) ' '

/-- R109: `is_reader_tag` compares the first two EPC bytes with the vendor prefix. -/
def Obligations.IsReaderTagResult : Prop :=
  ∀ (d : TagPollData) (s : State), d.epcBytes.length = 12 →
    exec (.isReaderTag d) s = .next { s with
      results := s.results ++ [.flag (decide
        (d.epcBytes.getD 0 0 = s.cfg.vendorPrefix0 ∧ d.epcBytes.getD 1 0 = s.cfg.vendorPrefix1))] }

/-- R110: `response_message`: 0x10 is success, each error code of a valid configuration has its own label, every other byte NN
the generic text with NN as two uppercase digits. -/
def Obligations.ResponseMessageResult : Prop :=
  ∀ (code : Byte) (s : State), s.cfg.responseCodesDistinct = true →
    ∃ m, exec (.responseMessage code) s = .next { s with results := s.results ++ [.message m] }
      ∧ (code = 0x10 → m = .labeled .success)
      ∧ (code = s.cfg.rcInvalidCommand → m = .labeled .invalidCommand)
      ∧ (code = s.cfg.rcInvalidParameter → m = .labeled .invalidParameter)
      ∧ (code = s.cfg.rcMemoryOverrun → m = .labeled .memoryOverrun)
      ∧ (code = s.cfg.rcMemoryLocked → m = .labeled .memoryLocked)
      ∧ (code = s.cfg.rcTagNotFound → m = .labeled .tagNotFound)
      ∧ (code = s.cfg.rcReadFailed → m = .labeled .readFailed)
      ∧ (code = s.cfg.rcWriteFailed → m = .labeled .writeFailed)
      ∧ (code = s.cfg.rcLockFailed → m = .labeled .lockFailed)
      ∧ (code ∉ [0x10, s.cfg.rcInvalidCommand, s.cfg.rcInvalidParameter, s.cfg.rcMemoryOverrun, s.cfg.rcMemoryLocked,
            s.cfg.rcTagNotFound, s.cfg.rcReadFailed, s.cfg.rcWriteFailed, s.cfg.rcLockFailed] →
          m = .unknown ("unknown error 0x" ++ String.ofList
            ["0123456789ABCDEF".toList.getD (code.toNat / 16) ' ', "0123456789ABCDEF".toList.getD (code.toNat % 16) ' ']))

-- ## Frames taken by the receive path (R106, R111, R161, R162)

/-- R111, D22: a Command frame of any row is emitted, with the Frame that `parse_frame` reads from its bytes, and changes
nothing else. -/
def Obligations.CommandFramesOnlyEmitted : Prop :=
  ∀ (s : State) (command k bank : Byte) (p password epc payload : List Byte) (address words : BitVec 16),
    ∀ i ∈ [Instr.frameCommand command p k, .cmdSinglePoll k, .cmdStartPoll p k, .cmdStopPoll k,
        .cmdWriteEpc password bank address words epc k, .cmdLockTag password payload k, .cmdSetRfPower p k,
        .cmdGetRfPower k],
      wellFormed s.cfg i = true →
      ∃ bs f, encode s.cfg i = some bs ∧ parseFrame bs = some f ∧ f.frameType = .command
        ∧ exec i s = .next { s with frameOut := s.frameOut ++ [f] }

/-- R111, R161: a Response of either row is emitted; if it answers the pending command (same command byte), the waiter gets its
outcome and the slot is cleared, else nothing more happens. The checksum is not consulted. -/
def Obligations.ResponseFramesDispatched : Prop :=
  ∀ (s : State) (command k : Byte) (p later : List Byte),
    ∀ i ∈ [Instr.frameResponse command p k, .responseSuccess command later k], wellFormed s.cfg i = true →
      ∃ bs f, encode s.cfg i = some bs ∧ parseFrame bs = some f ∧ f.frameType = .response ∧ f.command = command
        ∧ (∀ w, s.pending = some w → w.command = command →
          exec i s = .next { s with
            frameOut := s.frameOut ++ [f]
            results := s.results ++ [.host w.op (waiterOutcome s.cfg w.op f)]
            pending := none })
        ∧ ((∀ w, s.pending = some w → w.command ≠ command) →
          exec i s = .next { s with frameOut := s.frameOut ++ [f] })

/-- R164, R165, R171: what the waiter gets from a Response: with the success code, success (for get_rf_power some value, which
the spec leaves open, log 13; for single_poll with no extra bytes, no tag, else some tags, log 14); with any other code, a
failure that carries it; without a parameter byte, a failure without a code. That lock_tag is answered like write_epc is the
model's inference (log 17), and so are single_poll's failures and the failure without a code (log 32). -/
def Obligations.WaiterOutcomes : Prop :=
  ∀ (c : Config) (f : Frame), f.frameType = .response →
    (f.parameters.head? = some 0x10 →
      waiterOutcome c .setRfPower f = .success ∧ waiterOutcome c .writeEpc f = .success
      ∧ waiterOutcome c .lockTag f = .success ∧ (∃ v, waiterOutcome c .getRfPower f = .value v)
      ∧ (f.parameters = [0x10] → waiterOutcome c .singlePoll f = .tagReads [])
      ∧ (∃ ts, waiterOutcome c .singlePoll f = .tagReads ts ∧ ∀ d ∈ ts, d.epcBytes.length = 12))
    ∧ (∀ code, f.parameters.head? = some code → code ≠ 0x10 →
      ∀ op, waiterOutcome c op f = .failure (.response (some code) (some (responseMessage c code))))
    ∧ (f.parameters = [] → ∀ op, waiterOutcome c op f = .failure (.response none none))

/-- R65, R107, R111, R162, R167: a tag observation is emitted on FRAME_OUT, and while polling also on POLL_OUT, where every
waiting verify_epc for its EPC resolves true; when not polling nothing more happens. Any other Notice is emitted and changes
nothing else. -/
def Obligations.NoticeFramesDispatched : Prop :=
  (∀ (s : State) (rssi k : Byte) (pc : BitVec 16) (epc later : List Byte),
    wellFormed s.cfg (.noticeTagPoll rssi pc epc later k) = true →
    ∃ bs f, encode s.cfg (.noticeTagPoll rssi pc epc later k) = some bs ∧ parseFrame bs = some f
      ∧ (s.polling = false →
        exec (.noticeTagPoll rssi pc epc later k) s = .next { s with frameOut := s.frameOut ++ [f] })
      ∧ (s.polling = true →
        exec (.noticeTagPoll rssi pc epc later k) s = .next { s with
          frameOut := s.frameOut ++ [f]
          pollOut := s.pollOut ++ [{ rssi := rssi, pc := pc, epcBytes := epc }]
          verifies := s.verifies.filter fun v => v.expected != epc
          results := s.results ++ (s.verifies.filter fun v => v.expected == epc).map
            fun v => .host .verifyEpc (.verified v.expected true) }))
  ∧ ∀ (s : State) (command k : Byte) (p : List Byte), wellFormed s.cfg (.frameNotice command p k) = true →
    ∃ bs f, encode s.cfg (.frameNotice command p k) = some bs ∧ parseFrame bs = some f ∧ f.frameType = .notice
      ∧ exec (.frameNotice command p k) s = .next { s with frameOut := s.frameOut ++ [f] }

-- ## Serial transport (42_transport.md)

/-- R131 step K1, R200: `connect` from Disconnected or Error. -/
def Obligations.ConnectBegins : Prop :=
  ∀ (port : Text) (baud : Nat) (s : State), s.busy = none → s.conn.status = .disconnected ∨ s.conn.status = .error →
    exec (.connect port baud) s = .next { s with
      conn := { status := .connecting, portName := some port, baudRate := some baud, moduleEnabled := false,
                errorMessage := none }
      stateOut := s.stateOut ++ [{ status := .connecting, portName := some port, baudRate := some baud,
                                   moduleEnabled := false, errorMessage := none }]
      en := .deasserted
      enOut := if s.en = .deasserted then s.enOut else s.enOut ++ [.deasserted]
      busy := some .k2 }

/-- R139, R141: operations outside the state diagram, and operations while one is in progress, are refused. A host operation that
would write (good arguments, a free slot, polling not already as wanted) in Connected while a disconnect is in progress is refused
as the write inside it is (R141 for that write; that the whole operation is refused is the model's choice, log 29). -/
def Obligations.OutsideDiagramRefused : Prop :=
  ∀ (s : State) (port : Text) (baud : Nat) (bytes : List Byte) (value : Int) (epc password payload : List Byte),
    (s.busy = none → s.conn.status = .connecting ∨ s.conn.status = .connected →
      exec (.connect port baud) s = .refused .outsideDiagram)
    ∧ (s.busy = none → s.conn.status ≠ .connected → exec .disconnect s = .refused .outsideDiagram)
    ∧ (s.busy ≠ none → exec (.connect port baud) s = .refused .transportBusy)
    ∧ (s.busy ≠ none → exec .disconnect s = .refused .transportBusy)
    ∧ (s.busy ≠ none → s.conn.status = .connected → exec (.write bytes) s = .refused .transportBusy)
    ∧ (s.busy ≠ none → s.conn.status = .connected →
      (s.polling = false → (applyParamFn s.cfg.startPollParams 0).length ≤ 65535 →
        exec .hostStartPolling s = .refused .transportBusy)
      ∧ (s.polling = true → exec .hostStopPolling s = .refused .transportBusy)
      ∧ (s.pending = none →
        (0 ≤ value ∧ value ≤ 30 → (applyParamFn s.cfg.powerEncode value.toNat).length ≤ 65535 →
          exec (.hostSetRfPower value) s = .refused .transportBusy)
        ∧ exec .hostGetRfPower s = .refused .transportBusy
        ∧ (s.password.length = 4 → epc.length = 12 → exec (.hostWriteEpc epc) s = .refused .transportBusy)
        ∧ (password.length = 4 → payload.length = 3 →
          exec (.hostLockTag password payload) s = .refused .transportBusy)
        ∧ exec .hostSinglePoll s = .refused .transportBusy))

/-- R131: with every answer ok and no other event in between, the four steps after K1 end in Connected with EN asserted, the
port open, the reader attached and the result success; port name and rate are the arguments, and no byte is sent. -/
def Obligations.ConnectSucceeds : Prop :=
  ∀ (s : State) (rest : List EnvAnswer), TransportInv s → RxbufDrained s → s.busy = some .k2 → s.agenda = [] →
    s.answers = .ok :: .ok :: .ok :: .ok :: rest →
    ∃ t, Host.Core.run core 4 s = .next t
      ∧ t.conn = { s.conn with status := .connected, moduleEnabled := true }
      ∧ t.en = .asserted ∧ t.portOpen = true ∧ t.readerActive = true ∧ t.busy = none
      ∧ t.enOut = s.enOut ++ [.asserted]
      ∧ t.stateOut = s.stateOut ++ [{ s.conn with moduleEnabled := true },
                                    { s.conn with status := .connected, moduleEnabled := true }]
      ∧ t.asked = s.asked ++ [.openPort s.conn.portName s.conn.baudRate 8 1 .noParity, .assertEnable, .settle, .attachReader]
      ∧ t.results = s.results ++ [.transport .connect true]
      ∧ t.tx = s.tx ∧ t.rxbuf = s.rxbuf ∧ t.frameOut = s.frameOut ∧ t.byteOut = s.byteOut ∧ sameHost s t
      ∧ t.cfg = s.cfg ∧ t.draws = s.draws ∧ t.answers = rest ∧ t.agenda = [] ∧ t.runBegun = true

/-- R131, R132, R199: a failing answer in any of the steps K2 to K5 makes F1 the next step and changes nothing else; with no
answer scripted, such a step is as with some answer (log 3). F1 ends in Error with the message, EN deasserted, port and reader
closed, and the result failure; RXBUF is kept. Port name and rate are not stated (R13). That K5 asks is the model's inference
(log 20), and so is that F1's message waits with the operation in progress (log 31). -/
def Obligations.ConnectFails : Prop :=
  ∀ s : State, RxbufDrained s → s.agenda = [] →
    (∀ x ∈ [(Phase.k2, EnvQuestion.openPort s.conn.portName s.conn.baudRate 8 1 .noParity), (.k3, .assertEnable),
        (.k4, .settle), (.k5, .attachReader)], s.busy = some x.1 →
      (∀ msg n rest, s.answers = .fail msg n :: rest →
        step s = .next { s with
          runBegun := true, answers := rest, asked := s.asked ++ [x.2], busy := some (.f1 msg) })
      ∧ (s.answers = [] → ∃ a t, step { s with answers := [a] } = .next t
        ∧ step s = .next { t with draws := t.draws + 1 }))
    ∧ ∀ msg, s.busy = some (.f1 msg) →
      ∃ t, step s = .next t ∧ t.conn.status = .error ∧ t.conn.errorMessage = some msg ∧ t.conn.moduleEnabled = false
        ∧ t.en = .deasserted ∧ t.portOpen = false ∧ t.readerActive = false ∧ t.busy = none
        ∧ t.stateOut = s.stateOut ++ [t.conn] ∧ t.results = s.results ++ [.transport .connect false]
        ∧ t.enOut = (if s.en = .deasserted then s.enOut else s.enOut ++ [.deasserted])
        ∧ t.tx = s.tx ∧ t.rxbuf = s.rxbuf ∧ t.frameOut = s.frameOut ∧ t.byteOut = s.byteOut ∧ t.asked = s.asked
        ∧ sameHost s t ∧ sameInputs s t ∧ t.runBegun = true

/-- R133 step D1, R169: `disconnect` in Connected deasserts EN first; the host's pending request is failed and polling ends. That
this happens in the very step of D1 is the model's inference from R169 (logs 21 and 26). -/
def Obligations.DisconnectBegins : Prop :=
  ∀ (s : State), s.busy = none → s.conn.status = .connected →
    exec .disconnect s = .next { s with
      conn := { s.conn with moduleEnabled := false }
      stateOut := s.stateOut ++ [{ s.conn with moduleEnabled := false }]
      en := .deasserted
      enOut := if s.en = .deasserted then s.enOut else s.enOut ++ [.deasserted]
      busy := some .d2
      pending := none
      polling := false
      results := match s.pending with
        | some w => s.results ++ [.host w.op (.failure .cancelled)]
        | none => s.results }

/-- R133, R223: the steps D2 to D5: wait, reader released, port closed (EN already deasserted), Disconnected with the result
success; RXBUF is kept. Port name and rate are not stated (R13). -/
def Obligations.DisconnectCompletes : Prop :=
  ∀ (s : State), TransportInv s → RxbufDrained s → s.busy = some .d2 → s.agenda = [] →
    ∃ s₃ s₄ s₅ t, step s = .next s₃ ∧ step s₃ = .next s₄ ∧ step s₄ = .next s₅ ∧ step s₅ = .next t
      ∧ s₃ = { s with runBegun := true, busy := some .d3 }
      ∧ s₄ = { s with runBegun := true, busy := some .d4, readerActive := false }
      ∧ s₅ = { s with runBegun := true, busy := some .d5, readerActive := false, portOpen := false }
      ∧ s₄.portOpen = true ∧ s₄.en = .deasserted
      ∧ t.conn.status = .disconnected ∧ t.conn.moduleEnabled = false ∧ t.conn.errorMessage = none
      ∧ t.en = .deasserted ∧ t.portOpen = false ∧ t.readerActive = false ∧ t.busy = none
      ∧ t.stateOut = s.stateOut ++ [t.conn] ∧ t.results = s.results ++ [.transport .disconnect true]
      ∧ t.enOut = s.enOut ∧ t.tx = s.tx ∧ t.rxbuf = s.rxbuf ∧ t.frameOut = s.frameOut ∧ t.byteOut = s.byteOut
      ∧ t.asked = s.asked ∧ sameHost s t ∧ sameInputs s t

/-- R134: `write` in every state with no operation in progress, and outside Connected in every state: failure and nothing sent
outside Connected; in Connected, by the environment's answer, all the bytes in order and success, or a prefix of them and
failure; with no answer scripted, one of the two (log 3). CONN never changes. -/
def Obligations.WriteResult : Prop :=
  ∀ (s : State) (bytes : List Byte),
    (s.conn.status ≠ .connected →
      exec (.write bytes) s = .next { s with results := s.results ++ [.transport .write false] })
    ∧ (∀ rest, s.conn.status = .connected → s.busy = none →
      (s.answers = .ok :: rest →
        exec (.write bytes) s = .next { s with
          answers := rest, asked := s.asked ++ [.portWrite bytes], tx := s.tx ++ bytes
          results := s.results ++ [.transport .write true] })
      ∧ ∀ msg n, s.answers = .fail msg n :: rest →
        exec (.write bytes) s = .next { s with
          answers := rest, asked := s.asked ++ [.portWrite bytes], tx := s.tx ++ bytes.take n
          results := s.results ++ [.transport .write false] })
    ∧ (s.conn.status = .connected → s.busy = none → s.answers = [] →
      exec (.write bytes) s = .next { s with
        draws := s.draws + 1, asked := s.asked ++ [.portWrite bytes], tx := s.tx ++ bytes
        results := s.results ++ [.transport .write true] }
      ∨ ∃ n, exec (.write bytes) s = .next { s with
        draws := s.draws + 1, asked := s.asked ++ [.portWrite bytes], tx := s.tx ++ bytes.take n
        results := s.results ++ [.transport .write false] })

/-- R135: an inbound chunk while the reader is attached appears on BYTE_OUT and is pushed into RXBUF, in one step; no complete
candidate is left. -/
def Obligations.RxChunkResult : Prop :=
  ∀ (s : State) (bytes : List Byte), s.readerActive = true → chunkFits bytes s →
    ∃ t, exec (.envRxChunk bytes) s = .next t
      ∧ exec (.rxPush bytes) { s with byteOut := s.byteOut ++ [bytes] } = .next t
      ∧ t.byteOut = s.byteOut ++ [bytes] ∧ extractFrame t.rxbuf = none

/-- R196, R39: whatever bytes arrive, decoding leaves the transport as it is: no decode error changes CONN, EN or TX. -/
def Obligations.DecodingLeavesTransport : Prop :=
  ∀ (s t : State) (bytes : List Byte),
    exec (.rxPush bytes) s = .next t ∨ exec (.envRxChunk bytes) s = .next t →
      sameTransport s t ∧ sameInputs s t ∧ t.polling = s.polling ∧ t.password = s.password ∧ t.draws = s.draws

/-- R136, R199, R169: a hardware error in Connected with no operation in progress enters Error with its message; under the
default policy EN, port and reader go off, under `keep` only the reader, under `any` EN and the port have some value with
CONN.module_enabled equal to EN (log 12). During a disconnect it is ignored; outside Connected it is no event (the model's
stutter, log 22). That the host's slot is failed and polling ends in this very step is the model's inference from R169 (logs 21
and 26). -/
def Obligations.HwErrorResult : Prop :=
  ∀ (s : State) (msg : Text),
    (s.conn.status ≠ .connected ∨ s.busy ≠ none → exec (.envHwError msg) s = .next s)
    ∧ (s.conn.status = .connected → s.busy = none → ∃ t, exec (.envHwError msg) s = .next t
      ∧ t.conn.status = .error ∧ t.conn.errorMessage = some msg
      ∧ t.readerActive = false ∧ t.busy = none ∧ t.stateOut = s.stateOut ++ [t.conn]
      ∧ (s.cfg.hwerrEnPolicy = .deassert → t.en = .deasserted ∧ t.conn.moduleEnabled = false ∧ t.portOpen = false)
      ∧ (s.cfg.hwerrEnPolicy = .keep →
        t.en = s.en ∧ t.conn.moduleEnabled = s.conn.moduleEnabled ∧ t.portOpen = s.portOpen)
      ∧ (s.cfg.hwerrEnPolicy = .any → (t.conn.moduleEnabled = true ↔ t.en = .asserted))
      ∧ t.pending = none ∧ t.polling = false
      ∧ t.results = (match s.pending with
        | some w => s.results ++ [.host w.op (.failure .cancelled)]
        | none => s.results)
      ∧ t.enOut = (if t.en = s.en then s.enOut else s.enOut ++ [t.en])
      ∧ t.rxbuf = s.rxbuf ∧ t.tx = s.tx ∧ t.frameOut = s.frameOut ∧ t.byteOut = s.byteOut ∧ t.asked = s.asked
      ∧ t.password = s.password ∧ t.pollOut = s.pollOut ∧ t.verifies = s.verifies ∧ sameInputs s t)

/-- R27, R220, R221: the reset values of the block, the streams and the host, and what the event `reset` does: at power-on it
leaves exactly those values, and the run has begun; in mid-run it is refused; and after every step in which anything moved, a
reset is in mid-run. What counts as power-on is the model's reading (log 25). -/
def Obligations.ResetResult : Prop :=
  (∀ c, (State.resetWith c).rxbuf = []
    ∧ (State.resetWith c).conn = { status := .disconnected, portName := none, baudRate := none, moduleEnabled := false,
                                   errorMessage := none }
    ∧ (State.resetWith c).en = .deasserted ∧ (State.resetWith c).portOpen = false
    ∧ (State.resetWith c).readerActive = false ∧ (State.resetWith c).tx = [] ∧ (State.resetWith c).byteOut = []
    ∧ (State.resetWith c).frameOut = [] ∧ (State.resetWith c).stateOut = [] ∧ (State.resetWith c).pending = none
    ∧ (State.resetWith c).polling = false ∧ (State.resetWith c).password = [0x00, 0x00, 0x00, 0x00]
    ∧ (State.resetWith c).atPowerOn = true)
  ∧ ∀ s : State,
    (s.atPowerOn = true → exec .reset s = .next { State.resetWith s.cfg with
      runBegun := true, agenda := s.agenda, answers := s.answers, draws := s.draws })
    ∧ (s.runBegun = true → s.atPowerOn = false)
    ∧ (s.atPowerOn = false → exec .reset s = .refused .midRunReset)
    ∧ ∀ t, step s = .next t → t = s ∨ exec .reset t = .refused .midRunReset

-- ## The host (43_host_orchestrator.md)

/-- R163: `start_polling` and `stop_polling`: failure outside Connected, success without a write when polling is already as
wanted; else the command is written: with the write answered ok polling changes, with a failing write a prefix is sent, the
operation fails and polling stays (R134, R168, R192); with no answer scripted, one of the two (log 3). That they await no
Response, and count 0, are the model's choice (log 16). -/
def Obligations.HostPollingResult : Prop :=
  ∀ s : State,
    (s.conn.status ≠ .connected →
      exec .hostStartPolling s = .next { s with results := s.results ++ [.host .startPolling (.failure .notSent)] }
      ∧ exec .hostStopPolling s = .next { s with results := s.results ++ [.host .stopPolling (.failure .notSent)] })
    ∧ (s.conn.status = .connected → s.polling = true →
      exec .hostStartPolling s = .next { s with results := s.results ++ [.host .startPolling .success] })
    ∧ (s.conn.status = .connected → s.polling = false →
      exec .hostStopPolling s = .next { s with results := s.results ++ [.host .stopPolling .success] })
    ∧ ∀ x ∈ [(Instr.hostStartPolling, HostOp.startPolling, true,
              encodeFrameBytes .command s.cfg.cmdStartPoll (applyParamFn s.cfg.startPollParams 0)),
          (.hostStopPolling, .stopPolling, false, encodeFrameBytes .command s.cfg.cmdStopPoll [])],
      s.conn.status = .connected → s.busy = none → s.polling ≠ x.2.2.1 →
      (applyParamFn s.cfg.startPollParams 0).length ≤ 65535 →
      (∀ rest, s.answers = .ok :: rest →
        exec x.1 s = .next { s with
          answers := rest
          asked := s.asked ++ [.portWrite x.2.2.2]
          tx := s.tx ++ x.2.2.2
          results := s.results ++ [.host x.2.1 .success]
          polling := x.2.2.1 })
      ∧ (∀ msg n rest, s.answers = .fail msg n :: rest →
        exec x.1 s = .next { s with
          answers := rest
          asked := s.asked ++ [.portWrite x.2.2.2]
          tx := s.tx ++ x.2.2.2.take n
          results := s.results ++ [.host x.2.1 (.failure .notSent)] })
      ∧ (s.answers = [] →
        exec x.1 s = .next { s with
          draws := s.draws + 1
          asked := s.asked ++ [.portWrite x.2.2.2]
          tx := s.tx ++ x.2.2.2
          results := s.results ++ [.host x.2.1 .success]
          polling := x.2.2.1 }
        ∨ ∃ n, exec x.1 s = .next { s with
          draws := s.draws + 1
          asked := s.asked ++ [.portWrite x.2.2.2]
          tx := s.tx ++ x.2.2.2.take n
          results := s.results ++ [.host x.2.1 (.failure .notSent)] })

/-- R160, R164, R165, R166, R171: a host command with good arguments, an empty slot and a link that takes the write sends its
frame and takes the slot; nothing else changes. -/
def Obligations.HostCommandsSend : Prop :=
  ∀ (s : State) (rest : List EnvAnswer) (value : Int) (epc password payload : List Byte),
    s.conn.status = .connected → s.busy = none → s.pending = none → s.answers = .ok :: rest →
    0 ≤ value ∧ value ≤ 30 → (applyParamFn s.cfg.powerEncode value.toNat).length ≤ 65535 →
    epc.length = 12 → s.password.length = 4 → password.length = 4 → payload.length = 3 →
    ∀ x ∈ [(Instr.hostSetRfPower value, HostOp.setRfPower, s.cfg.cmdSetRfPower,
              applyParamFn s.cfg.powerEncode value.toNat),
        (.hostGetRfPower, .getRfPower, s.cfg.cmdGetRfPower, []),
        (.hostWriteEpc epc, .writeEpc, s.cfg.cmdWriteEpc,
          s.password ++ [s.cfg.membankEpc, hi8 s.cfg.writeStartAddr.toNat, lo8 s.cfg.writeStartAddr.toNat, 0x00, 0x06]
            ++ epc),
        (.hostLockTag password payload, .lockTag, s.cfg.cmdLockTag, password ++ payload),
        (.hostSinglePoll, .singlePoll, s.cfg.cmdSinglePoll, [])],
      exec x.1 s = .next { s with
        answers := rest
        asked := s.asked ++ [.portWrite (encodeFrameBytes .command x.2.2.1 x.2.2.2)]
        tx := s.tx ++ encodeFrameBytes .command x.2.2.1 x.2.2.2
        pending := some { op := x.2.1, command := x.2.2.1 } }

/-- R164 to R166, R191: a bad argument fails the host operation at once: no write, no slot, whatever the link is doing. -/
def Obligations.HostArgumentErrors : Prop :=
  ∀ (s : State) (value : Int) (epc password payload : List Byte),
    (value < 0 ∨ 30 < value →
      ∃ text, exec (.hostSetRfPower value) s = .next { s with
        results := s.results ++ [.host .setRfPower (.failure (.argument .rfPower text))], draws := s.draws + 1 })
    ∧ (s.password.length = 4 → epc.length ≠ 12 →
      ∃ text, exec (.hostWriteEpc epc) s = .next { s with
        results := s.results ++ [.host .writeEpc (.failure (.argument .epc text))], draws := s.draws + 1 })
    ∧ (password.length ≠ 4 →
      ∃ text, exec (.hostLockTag password payload) s = .next { s with
        results := s.results ++ [.host .lockTag (.failure (.argument .password text))], draws := s.draws + 1 })
    ∧ (password.length = 4 → payload.length ≠ 3 →
      ∃ text, exec (.hostLockTag password payload) s = .next { s with
        results := s.results ++ [.host .lockTag (.failure (.argument .lockPayload text))], draws := s.draws + 1 })

/-- R160, R168, R134, R192: a host command with good arguments that does not get through: with the slot occupied, and outside
Connected, it fails at once and sends nothing; with a failing write a prefix is sent, it fails and the slot stays free; with no
answer scripted, it is sent as above or fails so (log 3). That the slot is looked at before the link is log 17's. -/
def Obligations.HostCommandsRejected : Prop :=
  ∀ (s : State) (value : Int) (epc password payload : List Byte),
    0 ≤ value ∧ value ≤ 30 → (applyParamFn s.cfg.powerEncode value.toNat).length ≤ 65535 →
    epc.length = 12 → s.password.length = 4 → password.length = 4 → payload.length = 3 →
    ∀ x ∈ [(Instr.hostSetRfPower value, HostOp.setRfPower, s.cfg.cmdSetRfPower,
              applyParamFn s.cfg.powerEncode value.toNat),
        (.hostGetRfPower, .getRfPower, s.cfg.cmdGetRfPower, []),
        (.hostWriteEpc epc, .writeEpc, s.cfg.cmdWriteEpc,
          s.password ++ [s.cfg.membankEpc, hi8 s.cfg.writeStartAddr.toNat, lo8 s.cfg.writeStartAddr.toNat, 0x00, 0x06]
            ++ epc),
        (.hostLockTag password payload, .lockTag, s.cfg.cmdLockTag, password ++ payload),
        (.hostSinglePoll, .singlePoll, s.cfg.cmdSinglePoll, [])],
      (s.pending ≠ none → exec x.1 s = .next { s with
        results := s.results ++ [.host x.2.1 (.failure .slotOccupied)] })
      ∧ (s.pending = none → s.conn.status ≠ .connected → exec x.1 s = .next { s with
        results := s.results ++ [.host x.2.1 (.failure .notSent)] })
      ∧ (s.pending = none → s.conn.status = .connected → s.busy = none →
        (∀ msg n rest, s.answers = .fail msg n :: rest → exec x.1 s = .next { s with
          answers := rest
          asked := s.asked ++ [.portWrite (encodeFrameBytes .command x.2.2.1 x.2.2.2)]
          tx := s.tx ++ (encodeFrameBytes .command x.2.2.1 x.2.2.2).take n
          results := s.results ++ [.host x.2.1 (.failure .notSent)] })
        ∧ (s.answers = [] →
          exec x.1 s = .next { s with
            draws := s.draws + 1
            asked := s.asked ++ [.portWrite (encodeFrameBytes .command x.2.2.1 x.2.2.2)]
            tx := s.tx ++ encodeFrameBytes .command x.2.2.1 x.2.2.2
            pending := some { op := x.2.1, command := x.2.2.1 } }
          ∨ ∃ n, exec x.1 s = .next { s with
            draws := s.draws + 1
            asked := s.asked ++ [.portWrite (encodeFrameBytes .command x.2.2.1 x.2.2.2)]
            tx := s.tx ++ (encodeFrameBytes .command x.2.2.1 x.2.2.2).take n
            results := s.results ++ [.host x.2.1 (.failure .notSent)] }))

/-- R167, R195: `verify_epc` waits and sends nothing; a host timer that elapses fails the pending command, or resolves the
`verify_epc` false, and frees it. That `verify_epc` waits in every state, without R168's connection gate, and for an argument of
any length, is the model's inference (log 17), and that a timer is a move without time its choice (log 18). -/
def Obligations.WaitsAndTimers : Prop :=
  ∀ s : State,
    (∀ expected timeout, exec (.hostVerifyEpc expected timeout) s = .next { s with
      verifies := s.verifies ++ [{ expected := expected, timeout := timeout }] })
    ∧ ∀ rest, RxbufDrained s →
      (∀ w, s.agenda = .responseTimeout :: rest → s.pending = some w →
        step s = .next { s with
          agenda := rest, runBegun := true, pending := none, results := s.results ++ [.host w.op (.failure .timeout)] })
      ∧ ∀ k v, s.agenda = .verifyTimeout k :: rest → s.verifies[k]? = some v →
        step s = .next { s with
          agenda := rest, runBegun := true, verifies := s.verifies.eraseIdx k
          results := s.results ++ [.host .verifyEpc (.verified v.expected false)] }

-- ## The step

/-- R104, R106, R232: when the bytes at the first header of RXBUF are a well-formed frame row i, a step removes them and the
garbage before them and runs exactly i. Of bytes that are no frame a step leaves, under `drop_span`, what stands after the
candidate, and under `drop_header_byte` everything after the first header. -/
def Obligations.StepRunsFrameAtHeader : Prop :=
  ∀ s : State,
    (∀ (garbage bs rest : List Byte) (i : Instr), wellFormed s.cfg i = true → encode s.cfg i = some bs →
      (0xBB : Byte) ∉ garbage → s.rxbuf = garbage ++ bs ++ rest →
      step s = exec i { s with runBegun := true, rxbuf := rest })
    ∧ ∀ candidate rest, extractFrame s.rxbuf = some (candidate, rest) → parseFrame candidate = none →
      (s.cfg.resyncPolicy = .dropSpan → step s = .next { s with runBegun := true, rxbuf := rest })
      ∧ (s.cfg.resyncPolicy = .dropHeaderByte →
        ∀ front tail, s.rxbuf = front ++ 0xBB :: tail → (0xBB : Byte) ∉ front →
          step s = .next { s with runBegun := true, rxbuf := tail })

/-- R198, R232, R233, R195: with no complete frame in RXBUF a step takes the next turn of the agenda: a request runs exactly that
instruction (a frame row is no request: the model's fault, log 8), a block turn takes the next step of the operation in progress,
a timer turn with nothing waiting does nothing (log 26; with something waiting: WaitsAndTimers). With no turn left an operation
in progress goes on, else the pending command times out, else the first waiting `verify_epc`, else nothing moves (log 2). Every
turn is an event of the run, and `reset` alone runs in a state in which the run may not have begun (R220, log 25). -/
def Obligations.StepRunsAgenda : Prop :=
  ∀ s : State, RxbufDrained s →
    (∀ i rest, s.agenda = .request i :: rest → isFrameRow s.cfg i = false → i ≠ .reset →
      step s = exec i { s with agenda := rest, runBegun := true })
    ∧ (∀ rest, s.agenda = .request .reset :: rest → step s = exec .reset { s with agenda := rest })
    ∧ (∀ i rest, s.agenda = .request i :: rest → isFrameRow s.cfg i = true → step s = .fault .frameOnOperationPort)
    ∧ (∀ rest, s.agenda = .block :: rest → step s = .next (blockStep { s with agenda := rest, runBegun := true }))
    ∧ (∀ rest, s.agenda = .responseTimeout :: rest → s.pending = none →
      step s = .next { s with agenda := rest, runBegun := true })
    ∧ (∀ k rest, s.agenda = .verifyTimeout k :: rest → s.verifies[k]? = none →
      step s = .next { s with agenda := rest, runBegun := true })
    ∧ (s.agenda = [] → s.busy ≠ none → step s = .next (blockStep { s with runBegun := true }))
    ∧ (∀ w, s.agenda = [] → s.busy = none → s.pending = some w →
      step s = .next { s with
        runBegun := true, pending := none, results := s.results ++ [.host w.op (.failure .timeout)] })
    ∧ (∀ v later, s.agenda = [] → s.busy = none → s.pending = none → s.verifies = v :: later →
      step s = .next { s with
        runBegun := true, verifies := later, results := s.results ++ [.host .verifyEpc (.verified v.expected false)] })
    ∧ (s.agenda = [] → s.busy = none → s.pending = none → s.verifies = [] → step s = .next s)

-- ## Whole-machine rules

/-- R27: every invariant holds after reset, under every configuration. -/
def Obligations.ResetMeetsInvariants : Prop := ∀ c, Inv (State.resetWith c)

/-- R26 (a) to (g), R18, R14, R137: every step keeps the transport's invariants, from every state that meets them. -/
def Obligations.StepKeepsTransportInvariants : Prop :=
  ∀ s t : State, TransportInv s → step s = .next t → TransportInv t

/-- R26 (h): every step leaves no complete candidate in RXBUF if there was none. -/
def Obligations.StepKeepsRxbufDrained : Prop :=
  ∀ s t : State, RxbufDrained s → step s = .next t → RxbufDrained t

/-- R160, R168, R169: every step keeps the host's invariants: a request waits and polling is on only while the link is up. That
this holds after every step is the model's inference: its host cancels in the step in which the link goes (logs 21 and 26). -/
def Obligations.StepKeepsHostInvariants : Prop :=
  ∀ s t : State, HostInv s → step s = .next t → HostInv t

/-- R130, R131, R132, R133, R136: the status changes only along the arcs of the state diagram, each arc only with its event
(`connect` called, its last step succeeding, one of its steps failing, `disconnect` completing, a hardware error), and with its
event each arc is taken: a failing answer leads to F1, and F1 to Error with the answer's text. That K5 gets an answer is the
model's inference (log 20). -/
def Obligations.StatusFollowsDiagram : Prop :=
  (∀ s : State,
    (∀ port baud, s.busy = none → s.conn.status = .disconnected ∨ s.conn.status = .error →
      ∃ t, exec (.connect port baud) s = .next t ∧ t.conn.status = .connecting)
    ∧ (∀ rest, s.busy = some .k5 → s.answers = .ok :: rest → (blockStep s).conn.status = .connected)
    ∧ (∀ msg n rest, s.busy ∈ [some .k2, some .k3, some .k4, some .k5] → s.answers = .fail msg n :: rest →
      (blockStep s).busy = some (.f1 msg))
    ∧ (∀ msg, s.busy = some (.f1 msg) → (blockStep s).conn.status = .error)
    ∧ (s.busy = some .d5 → (blockStep s).conn.status = .disconnected)
    ∧ (∀ msg, s.conn.status = .connected → s.busy = none →
      ∃ t, exec (.envHwError msg) s = .next t ∧ t.conn.status = .error))
  ∧ ∀ s t : State, TransportInv s → step s = .next t →
    t.conn.status = s.conn.status
    ∨ (s.conn.status = .disconnected ∨ s.conn.status = .error) ∧ t.conn.status = .connecting
      ∧ (∃ port baud rest, s.agenda = .request (.connect port baud) :: rest)
    ∨ s.conn.status = .connecting ∧ t.conn.status = .connected ∧ s.busy = some .k5
    ∨ s.conn.status = .connecting ∧ t.conn.status = .error ∧ t.busy = none
      ∧ (∃ msg, s.busy = some (.f1 msg) ∧ t.conn.errorMessage = some msg)
      ∧ t.results = s.results ++ [.transport .connect false]
    ∨ s.conn.status = .connected ∧ t.conn.status = .disconnected ∧ s.busy = some .d5
    ∨ s.conn.status = .connected ∧ t.conn.status = .error ∧ s.busy = none
      ∧ (∃ msg rest, s.agenda = .request (.envHwError msg) :: rest)

/-- R138: after reset EN is deasserted. EN becomes asserted only in step K3. It is deasserted in step D1 of a `disconnect` (the
port still open), in every connect failure, and in a hardware error under the default policy, and becomes so in no other step;
under another policy also where the next `connect` finds it asserted in Error (R131, K1). CONN.module_enabled changes in the same
step and to the matching value. -/
def Obligations.EnableLineRule : Prop :=
  (∀ c, (State.resetWith c).en = .deasserted)
  ∧ ∀ s t : State, TransportInv s → step s = .next t →
    (s.en = .deasserted → t.en = .asserted → s.busy = some .k3)
    ∧ (s.en = .asserted → t.en = .deasserted →
      ((∃ rest, s.agenda = .request .disconnect :: rest) ∧ t.busy = some .d2 ∧ t.portOpen = true)
      ∨ ((∃ msg, s.busy = some (.f1 msg)) ∧ t.conn.status = .error)
      ∨ ((∃ msg rest, s.agenda = .request (.envHwError msg) :: rest) ∧ t.conn.status = .error)
      ∨ (s.cfg.hwerrEnPolicy ≠ .deassert ∧ s.conn.status = .error
        ∧ ∃ port baud rest, s.agenda = .request (.connect port baud) :: rest))
    ∧ (t.busy = some .d2 → t.en = .deasserted)
    ∧ (s.conn.status = .connecting → t.conn.status = .error → t.en = .deasserted)
    ∧ (s.cfg.hwerrEnPolicy = .deassert → t.conn.status = .error → t.en = .deasserted)
    ∧ (t.conn.moduleEnabled = true ↔ t.en = .asserted)

/-- R223, R133: whenever a step closes the port, EN is deasserted after it, and it was deasserted already before it unless the
step enters Error. -/
def Obligations.PowerDownBeforePortClose : Prop :=
  ∀ s t : State, TransportInv s → s.cfg.hwerrEnPolicy ≠ .any → step s = .next t →
    s.portOpen = true → t.portOpen = false →
    t.en = .deasserted ∧ (s.en = .deasserted ∨ t.conn.status = .error)

/-- R30, R40, R39, R137: in every step every stream only grows at its end, and the configuration does not change; a step that
changes CONN emits the new value, as the last event of STATE_OUT. -/
def Obligations.StreamsOnlyGrow : Prop :=
  ∀ s t : State, step s = .next t →
    streamsGrow s t ∧ t.cfg = s.cfg
      ∧ (t.conn ≠ s.conn → t.stateOut ≠ s.stateOut ∧ t.stateOut.getLast? = some t.conn)

/-- R10, R24: every codec operation but rx_push is a pure function: it changes nothing but the results returned (and the model's
counter of free values), completes in every state, and its result is a function of its arguments, the configuration and that
counter (which only the text of an ArgumentError and the checksum of too many bytes use: the model's choice, logs 10 and 15). -/
def Obligations.CodecOperationsArePure : Prop :=
  ∀ (t c command code : Byte) (ft : FrameType) (p password epc payload : List Byte) (count value : Int) (f : Frame)
    (d : TagPollData),
    ∀ i ∈ [Instr.checksum t c p, .encodeFrame ft c p, .buildCommand command p, .buildSinglePoll, .buildStartPoll count,
        .buildStopPoll, .buildWriteEpc password epc, .buildLockTag password payload, .buildSetRfPower value,
        .buildGetRfPower, .parseFrame p, .frameChecksumValid f, .frameIsSuccess f, .frameResponseCode f, .findFrameEnd p,
        .extractFrame p, .parseTagPollData f, .epcHex d, .isReaderTag d, .responseMessage code],
      ∃ (r : Config → Nat → Result) (n : Config → Nat), ∀ s : State,
        exec i s = .next { s with results := s.results ++ [r s.cfg s.draws], draws := s.draws + n s.cfg }

/-- R139, R141, R36, R220: no instruction ends in a fault, the only refusals are of the four kinds the spec names, each only in
the cases listed, and in every other state every instruction has a next state. Of the cases, R139 gives those of outsideDiagram, R141
that `connect`, `disconnect` and `write` are refused while the transport is busy, and R36 (U14) the overflow. The model's choices
are that a host operation is refused with the write inside it (log 29), which states count as a run's first event for
midRunReset (log 25), and, among the next states, an event that is not enabled (log 22), the free checksum of too many bytes and
`encode_frame`'s ArgumentError for them (log 15). -/
def Obligations.OnlySpecRefusals : Prop :=
  ∀ (i : Instr) (s : State),
    (∃ t, exec i s = .next t)
    ∨ (exec i s = .refused .outsideDiagram ∧ s.busy = none
      ∧ ((∃ port baud, i = .connect port baud) ∧ (s.conn.status = .connecting ∨ s.conn.status = .connected)
        ∨ i = .disconnect ∧ s.conn.status ≠ .connected))
    ∨ (exec i s = .refused .transportBusy ∧ s.busy ≠ none
      ∧ ((∃ port baud, i = .connect port baud) ∨ i = .disconnect
        ∨ s.conn.status = .connected ∧ ((∃ bytes, i = .write bytes)
          ∨ i = .hostStartPolling ∨ i = .hostStopPolling ∨ (∃ v, i = .hostSetRfPower v) ∨ i = .hostGetRfPower
          ∨ (∃ e, i = .hostWriteEpc e) ∨ (∃ w l, i = .hostLockTag w l) ∨ i = .hostSinglePoll)))
    ∨ (exec i s = .refused .midRunReset ∧ i = .reset ∧ s.atPowerOn = false)
    ∨ (exec i s = .refused .rxbufOverflow
      ∧ ((∃ b, i = .rxPush b ∧ ¬ chunkFits b s)
        ∨ (∃ b, i = .envRxChunk b ∧ s.readerActive = true ∧ ¬ chunkFits b s)))

/-- R135, R136, R233, R36: an event that is not enabled leaves everything as it is (the model's stutter, log 22): a chunk while
the reader is not attached, and both events in Disconnected or Error with no operation in progress. A chunk that does not fit
in RXBUF is refused. -/
def Obligations.EventsNotEnabled : Prop :=
  ∀ (s : State) (bytes : List Byte) (msg : Text),
    (s.readerActive = false → exec (.envRxChunk bytes) s = .next s)
    ∧ (TransportInv s → quiescent s → exec (.envRxChunk bytes) s = .next s ∧ exec (.envHwError msg) s = .next s)
    ∧ (s.readerActive = true → ¬ chunkFits bytes s → exec (.envRxChunk bytes) s = .refused .rxbufOverflow)
end

