-- ==== Sys2Proof/Laws/Bytes.lean ====
section
/-! SUPPORT. The byte arithmetic: high and low bytes join again, frame types and their bytes, the length of a frame. -/

namespace Sys2Proof.Machine

@[simp] theorem hi8_toNat (n : Nat) : (hi8 n).toNat = n / 256 % 256 := by simp [hi8]

@[simp] theorem lo8_toNat (n : Nat) : (lo8 n).toNat = n % 256 := by simp [lo8]

/-- R55: the length bytes give the length back. -/
theorem u16be_hi8_lo8 {n : Nat} (h : n ≤ 65535) : u16be (hi8 n) (lo8 n) = n := by
  simp only [u16be, hi8_toNat, lo8_toNat]; omega

theorem u16be_le (h l : Byte) : u16be h l ≤ 65535 := by
  have := h.isLt; have := l.isLt; simp only [u16be]; omega

theorem hi8_u16be (h l : Byte) : hi8 (u16be h l) = h := by
  apply BitVec.eq_of_toNat_eq
  have := h.isLt; have := l.isLt
  simp only [hi8_toNat, u16be]; omega

theorem lo8_u16be (h l : Byte) : lo8 (u16be h l) = l := by
  apply BitVec.eq_of_toNat_eq
  have := h.isLt; have := l.isLt
  simp only [lo8_toNat, u16be]; omega

theorem ofBe16_be16 (w : BitVec 16) : ofBe16 (hi8 w.toNat) (lo8 w.toNat) = w := by
  have h := w.isLt
  simp only [ofBe16]; rw [u16be_hi8_lo8 (by omega)]; simp

theorem be16_ofBe16 (h l : Byte) : be16 (ofBe16 h l) = [h, l] := by
  have hlt : u16be h l < 2 ^ 16 := by have := u16be_le h l; omega
  simp only [be16, ofBe16, BitVec.toNat_ofNat, Nat.mod_eq_of_lt hlt, hi8_u16be, lo8_u16be]

@[simp] theorem frameTypeOf_byte (t : FrameType) : frameTypeOf (frameTypeByte t) = some t := by cases t <;> decide

theorem frameTypeByte_of {b : Byte} {t : FrameType} (h : frameTypeOf b = some t) : frameTypeByte t = b := by
  unfold frameTypeOf at h
  split at h
  · cases h; simp_all [frameTypeByte]
  · split at h
    · cases h; simp_all [frameTypeByte]
    · split at h
      · cases h; simp_all [frameTypeByte]
      · cases h

@[simp] theorem length_wireBytes (w : Wire) : (wireBytes w).length = w.parameters.length + 7 := by
  simp [wireBytes]

theorem sum8_eq (s : List Byte) : sum8 s = BitVec.ofNat 8 ((s.map BitVec.toNat).sum % 256) := by
  apply BitVec.eq_of_toNat_eq; simp [sum8]

end Sys2Proof.Machine
end

