-- ==== Sys2Proof/Laws/Builders.lean ====
section
/-! SUPPORT. The argument checks (R81 to R90, R191) and the builders: when each answers bytes, which bytes, and which argument it
reports otherwise. Later proofs cite these and do not unfold a builder. -/

namespace Sys2Proof.Machine

theorem checkParameters_ok {p : List Byte} (h : p.length ≤ 65535) : checkParameters p = .ok () :=
  if_neg (show ¬ p.length > maxParams from Nat.not_lt.2 h)

theorem checkParameters_error {p : List Byte} (h : 65535 < p.length) : checkParameters p = .error .parameters := if_pos h

theorem checkCount_ok {n : Int} (h : 0 ≤ n ∧ n ≤ 65535) : checkCount n = .ok () := if_neg (by omega)

theorem checkCount_error {n : Int} (h : n < 0 ∨ 65535 < n) : checkCount n = .error .count := if_pos (by omega)

theorem checkPassword_ok {w : List Byte} (h : w.length = 4) : checkPassword w = .ok () := if_neg (not_not.2 h)

theorem checkPassword_error {w : List Byte} (h : w.length ≠ 4) : checkPassword w = .error .password := if_pos h

theorem checkEpc_ok {e : List Byte} (h : e.length = 12) : checkEpc e = .ok () := if_neg (not_not.2 h)

theorem checkEpc_error {e : List Byte} (h : e.length ≠ 12) : checkEpc e = .error .epc := if_pos h

theorem checkLockPayload_ok {l : List Byte} (h : l.length = 3) : checkLockPayload l = .ok () := if_neg (not_not.2 h)

theorem checkLockPayload_error {l : List Byte} (h : l.length ≠ 3) : checkLockPayload l = .error .lockPayload := if_pos h

theorem checkRfPower_ok {v : Int} (h : 0 ≤ v ∧ v ≤ 30) : checkRfPower v = .ok () :=
  if_neg (show ¬ (v < 0 ∨ v > 30) by omega)

theorem checkRfPower_error {v : Int} (h : v < 0 ∨ 30 < v) : checkRfPower v = .error .rfPower := if_pos h

/-- R89: `encode_frame`. -/
theorem encodeFrame_ok {t : FrameType} {c : Byte} {p : List Byte} (h : p.length ≤ 65535) :
    encodeFrame t c p = .ok (encodeFrameBytes t c p) := by unfold encodeFrame; rw [checkParameters_ok h]; rfl

theorem encodeFrame_error {t : FrameType} {c : Byte} {p : List Byte} (h : 65535 < p.length) :
    encodeFrame t c p = .error .parameters := by unfold encodeFrame; rw [checkParameters_error h]; rfl

/-- R81: `build_command`. -/
theorem buildCommand_ok {c : Byte} {p : List Byte} (h : p.length ≤ 65535) :
    buildCommand c p = .ok (encodeFrameBytes .command c p) := by unfold buildCommand; rw [checkParameters_ok h]; rfl

theorem buildCommand_error {c : Byte} {p : List Byte} (h : 65535 < p.length) : buildCommand c p = .error .parameters := by
  unfold buildCommand; rw [checkParameters_error h]; rfl

/-- R82, R84, R87. -/
theorem buildSinglePoll_eq (c : Config) : buildSinglePoll c = .ok (encodeFrameBytes .command c.cmdSinglePoll []) := rfl

theorem buildStopPoll_eq (c : Config) : buildStopPoll c = .ok (encodeFrameBytes .command c.cmdStopPoll []) := rfl

theorem buildGetRfPower_eq (c : Config) : buildGetRfPower c = .ok (encodeFrameBytes .command c.cmdGetRfPower []) := rfl

/-- R83: with a good count, `build_command` of the configured parameters. -/
theorem buildStartPoll_eq {c : Config} {n : Int} (h : 0 ≤ n ∧ n ≤ 65535) :
    buildStartPoll c n = buildCommand c.cmdStartPoll (applyParamFn c.startPollParams n.toNat) := by
  unfold buildStartPoll; rw [checkCount_ok h]; rfl

theorem buildStartPoll_error {c : Config} {n : Int} (h : n < 0 ∨ 65535 < n) : buildStartPoll c n = .error .count := by
  unfold buildStartPoll; rw [checkCount_error h]; rfl

/-- R86: with a good power, `build_command` of the configured parameters. -/
theorem buildSetRfPower_eq {c : Config} {v : Int} (h : 0 ≤ v ∧ v ≤ 30) :
    buildSetRfPower c v = buildCommand c.cmdSetRfPower (applyParamFn c.powerEncode v.toNat) := by
  unfold buildSetRfPower; rw [checkRfPower_ok h]; rfl

theorem buildSetRfPower_error {c : Config} {v : Int} (h : v < 0 ∨ 30 < v) : buildSetRfPower c v = .error .rfPower := by
  unfold buildSetRfPower; rw [checkRfPower_error h]; rfl

/-- R62, R85: the 21 parameter bytes of "write EPC". -/
theorem writeEpcLayout_eq (w : List Byte) (b : Byte) (a : BitVec 16) (e : List Byte) :
    writeEpcLayout w b a (BitVec.ofNat 16 writeWordCount) e = w ++ [b, hi8 a.toNat, lo8 a.toNat, 0x00, 0x06] ++ e := by
  simp [writeEpcLayout, be16, writeWordCount, epcLen, hi8, lo8]

/-- R85. -/
theorem buildWriteEpc_ok {c : Config} {w e : List Byte} (hw : w.length = 4) (he : e.length = 12) :
    buildWriteEpc c w e = .ok (encodeFrameBytes .command c.cmdWriteEpc
      (w ++ [c.membankEpc, hi8 c.writeStartAddr.toNat, lo8 c.writeStartAddr.toNat, 0x00, 0x06] ++ e)) := by
  unfold buildWriteEpc
  rw [checkPassword_ok hw, checkEpc_ok he, writeEpcLayout_eq]
  exact buildCommand_ok (by simp [hw, he])

theorem buildWriteEpc_password {c : Config} {w e : List Byte} (hw : w.length ≠ 4) :
    buildWriteEpc c w e = .error .password := by unfold buildWriteEpc; rw [checkPassword_error hw]; rfl

theorem buildWriteEpc_epc {c : Config} {w e : List Byte} (hw : w.length = 4) (he : e.length ≠ 12) :
    buildWriteEpc c w e = .error .epc := by unfold buildWriteEpc; rw [checkPassword_ok hw, checkEpc_error he]; rfl

/-- R90. -/
theorem buildLockTag_ok {c : Config} {w l : List Byte} (hw : w.length = 4) (hl : l.length = 3) :
    buildLockTag c w l = .ok (encodeFrameBytes .command c.cmdLockTag (w ++ l)) := by
  unfold buildLockTag
  rw [checkPassword_ok hw, checkLockPayload_ok hl]
  exact buildCommand_ok (by simp [hw, hl])

theorem buildLockTag_password {c : Config} {w l : List Byte} (hw : w.length ≠ 4) :
    buildLockTag c w l = .error .password := by unfold buildLockTag; rw [checkPassword_error hw]; rfl

theorem buildLockTag_payload {c : Config} {w l : List Byte} (hw : w.length = 4) (hl : l.length ≠ 3) :
    buildLockTag c w l = .error .lockPayload := by
  unfold buildLockTag; rw [checkPassword_ok hw, checkLockPayload_error hl]; rfl

end Sys2Proof.Machine
end

