-- ==== Sys2Proof/Laws/Decode.lean ====
section
/-! SUPPORT. One frame: reading the bytes of a frame gives its fields, and what is read is the bytes of a frame. -/

namespace Sys2Proof

open Sys2Proof.Machine

/-- R100: reading the wire bytes of a frame gives its fields and leaves what follows. -/
theorem readWire_wireBytes {w : Wire} (rest : List Byte) (h : w.parameters.length ≤ maxParams) :
    readWire (wireBytes w ++ rest) = .ok (w, rest) := by
  have hl : u16be (hi8 w.parameters.length) (lo8 w.parameters.length) = w.parameters.length := u16be_hi8_lo8 h
  have hb : ¬ (w.parameters ++ ([w.checksum, endByte] ++ rest)).length < 2 := by simp; omega
  simp only [wireBytes, readWire, List.cons_append, List.nil_append, List.append_assoc, hl] at hb ⊢
  rw [if_neg hb]; simp

/-- R100: what is read is the front of the bytes. -/
theorem readWire_ok {b : List Byte} {w : Wire} {rest : List Byte} (h : readWire b = .ok (w, rest)) :
    b = wireBytes w ++ rest ∧ w.parameters.length ≤ maxParams := by
  unfold readWire at h
  split at h
  · rename_i hd t c lh ll body
    split at h
    · cases h
    split at h
    · cases h
    rename_i hhd
    split at h
    · cases h
    rename_i ft hft
    split at h
    · rename_i k e tl htl
      split at h
      · cases h
      rename_i he
      simp only [Except.ok.injEq, Prod.mk.injEq] at h
      obtain ⟨rfl, rfl⟩ := h
      have hlen : (body.take (u16be lh ll)).length = u16be lh ll := by
        have : (body.drop (u16be lh ll)).length = tl.length + 2 := by rw [htl]; rfl
        simp only [List.length_drop] at this
        simp only [List.length_take]; omega
      refine ⟨?_, ?_⟩
      · simp only [Decidable.not_not] at hhd he
        subst hhd he
        simp only [wireBytes, hlen, hi8_u16be, lo8_u16be, frameTypeByte_of hft]
        have := List.take_append_drop (u16be lh ll) body
        rw [htl] at this
        simp only [List.cons_append, List.append_assoc, List.nil_append, this]
      · simp only [hlen]; exact u16be_le lh ll
    · cases h
  · cases h

theorem readWire_iff {b : List Byte} {w : Wire} {rest : List Byte} :
    readWire b = .ok (w, rest) ↔ b = wireBytes w ++ rest ∧ w.parameters.length ≤ maxParams := by
  constructor
  · exact readWire_ok
  · rintro ⟨rfl, h⟩; exact readWire_wireBytes rest h

/-- R100: a Frame is parsed exactly from bytes that begin with its wire bytes. -/
theorem parseFrame_iff {b : List Byte} {f : Frame} :
    parseFrame b = some f ↔ ∃ w rest, w.parameters.length ≤ maxParams ∧ b = wireBytes w ++ rest ∧ f = frameOfWire w := by
  unfold parseFrame
  constructor
  · intro h
    split at h
    · rename_i w rest hw
      obtain ⟨hb, hl⟩ := readWire_ok hw
      exact ⟨w, rest, hl, hb, by simpa using h.symm⟩
    · cases h
  · rintro ⟨w, rest, hl, rfl, rfl⟩
    rw [readWire_wireBytes rest hl]

theorem parseFrame_wireBytes {w : Wire} (h : w.parameters.length ≤ maxParams) :
    parseFrame (wireBytes w) = some (frameOfWire w) :=
  parseFrame_iff.2 ⟨w, [], h, by simp, rfl⟩

/-- D13: a Frame whose `raw_bytes` are the parsed bytes is exactly a frame. -/
theorem parseFrame_exact {b : List Byte} {f : Frame} (h : parseFrame b = some f) (hr : f.rawBytes = some b) :
    ∃ w, w.parameters.length ≤ maxParams ∧ b = wireBytes w ∧ f = frameOfWire w := by
  obtain ⟨w, rest, hl, hb, rfl⟩ := parseFrame_iff.1 h
  refine ⟨w, hl, ?_, rfl⟩
  simpa [frameOfWire] using hr.symm

end Sys2Proof
end

