-- ==== Sys2Proof/Laws/Codec.lean ====
section
/-! SUPPORT. Frame search and extraction (R104, R105): what they find after garbage, and that extraction shortens the buffer. -/

namespace Sys2Proof.Machine

theorem findHeader_none {buf : List Byte} : findHeader buf = none ↔ header ∉ buf := by
  unfold findHeader
  rw [List.findIdx?_eq_none_iff]
  constructor
  · intro h hm; simpa using h _ hm
  · intro h x hx; simp only [beq_eq_false_iff_ne]; rintro rfl; exact h hx

theorem findHeader_append {front tail : List Byte} (h : header ∉ front) :
    findHeader (front ++ header :: tail) = some front.length := by
  induction front with
  | nil => simp [findHeader, List.findIdx?_cons]
  | cons x xs ih =>
    simp only [List.mem_cons, not_or] at h
    have := ih h.2
    simp only [findHeader] at this ⊢
    have hx : (x == header) = false := by simp only [beq_eq_false_iff_ne]; exact fun e => h.1 e.symm
    simp [List.findIdx?_cons, this, hx]

/-- R104: either there is no header, or the buffer splits at its first one. -/
theorem header_split (buf : List Byte) :
    header ∉ buf ∨ ∃ front tail, header ∉ front ∧ buf = front ++ header :: tail := by
  induction buf with
  | nil => simp
  | cons x xs ih =>
    by_cases hx : x = header
    · exact .inr ⟨[], xs, by simp, by simp [hx]⟩
    · rcases ih with h | ⟨front, tail, h, rfl⟩
      · exact .inl (by simp only [List.mem_cons, not_or]; exact ⟨fun e => hx e.symm, h⟩)
      · exact .inr ⟨x :: front, tail, by simp only [List.mem_cons, not_or]; exact ⟨fun e => hx e.symm, h⟩, rfl⟩

theorem findFrameEnd_no_header {buf : List Byte} (h : header ∉ buf) : findFrameEnd buf = none := by
  simp [findFrameEnd, findHeader_none.2 h]

/-- R104: the search from the first header on. -/
theorem findFrameEnd_append {front tail : List Byte} (h : header ∉ front) :
    findFrameEnd (front ++ header :: tail) =
      match tail with
      | _ :: _ :: lh :: ll :: _ =>
        if front.length + 6 + u16be lh ll ≥ front.length + tail.length + 1 then none
        else some (front.length + 6 + u16be lh ll)
      | _ => none := by
  unfold findFrameEnd
  rw [findHeader_append h]
  match tail with
  | [] => simp
  | [_] => simp
  | [_, _] => simp
  | [_, _, _] => simp
  | a :: b :: lh :: ll :: rest =>
    simp only [List.drop_left, List.length_append, List.length_cons, Nat.add_assoc]

theorem extractFrame_no_header {buf : List Byte} (h : header ∉ buf) : extractFrame buf = none := by
  simp [extractFrame, findHeader_none.2 h]

theorem extractFrame_none_iff {buf : List Byte} : extractFrame buf = none ↔ findFrameEnd buf = none := by
  unfold extractFrame
  cases hh : findHeader buf with
  | none => simp [findFrameEnd, hh]
  | some h => cases he : findFrameEnd buf <;> simp

/-- R104: the end lies at least six bytes after the first header. -/
theorem findFrameEnd_ge {front tail : List Byte} {e : Nat} (h : header ∉ front)
    (he : findFrameEnd (front ++ header :: tail) = some e) : front.length + 6 ≤ e := by
  rw [findFrameEnd_append h] at he
  split at he
  · split at he
    · cases he
    · simp only [Option.some.injEq] at he; omega
  · cases he

/-- R105: extraction from the first header on. -/
theorem extractFrame_append {front tail : List Byte} {e : Nat} (h : header ∉ front)
    (he : findFrameEnd (front ++ header :: tail) = some e) :
    extractFrame (front ++ header :: tail)
      = some ((header :: tail).take (e + 1 - front.length), (front ++ header :: tail).drop (e + 1)) := by
  unfold extractFrame
  have hge := findFrameEnd_ge h he
  have ht : (front ++ header :: tail).take (e + 1) = front ++ (header :: tail).take (e + 1 - front.length) := by
    rw [List.take_append, List.take_of_length_le (by omega)]
  simp only [findHeader_append h, he, ht, List.drop_left]

/-- R105, R106: garbage, a whole frame, and what follows it. -/
theorem extractFrame_wire {g rest : List Byte} {w : Wire} (hg : header ∉ g) (hl : w.parameters.length ≤ maxParams) :
    extractFrame (g ++ (wireBytes w ++ rest)) = some (wireBytes w, rest) := by
  have hu : u16be (hi8 w.parameters.length) (lo8 w.parameters.length) = w.parameters.length := u16be_hi8_lo8 hl
  have he : findFrameEnd (g ++ (wireBytes w ++ rest)) = some (g.length + 6 + w.parameters.length) := by
    simp only [wireBytes, List.cons_append, List.nil_append, List.append_assoc]
    rw [findFrameEnd_append hg]
    simp only [hu, List.length_cons, List.length_append]
    rw [if_neg (by omega)]
  have hw : g ++ (wireBytes w ++ rest) = g ++ header :: ((wireBytes w).tail ++ rest) := by simp [wireBytes]
  rw [hw] at he ⊢
  rw [extractFrame_append hg he]
  have hcons : header :: ((wireBytes w).tail ++ rest) = wireBytes w ++ rest := by simp [wireBytes]
  rw [hcons]
  have hlen := length_wireBytes w
  have h1 : g.length + 6 + w.parameters.length + 1 - g.length = (wireBytes w).length := by omega
  have h2 : g.length + 6 + w.parameters.length + 1 = g.length + (wireBytes w).length := by omega
  rw [h1, h2]
  simp [List.drop_append]

/-- R104: a proper front part of a frame is incomplete. -/
theorem extractFrame_take {w : Wire} {k : Nat} (hl : w.parameters.length ≤ maxParams) (hk : k < (wireBytes w).length) :
    extractFrame ((wireBytes w).take k) = none := by
  have hu : u16be (hi8 w.parameters.length) (lo8 w.parameters.length) = w.parameters.length := u16be_hi8_lo8 hl
  rw [extractFrame_none_iff]
  have hlen := length_wireBytes w
  match k with
  | 0 => simp [findFrameEnd, findHeader]
  | k + 1 =>
    have : (wireBytes w).take (k + 1) = [] ++ header :: ((wireBytes w).tail.take k) := by simp [wireBytes]
    rw [this, findFrameEnd_append (by simp)]
    match k with
    | 0 => simp
    | 1 => simp [wireBytes]
    | 2 => simp [wireBytes]
    | 3 => simp [wireBytes]
    | k + 4 =>
      simp only [wireBytes, List.cons_append, List.nil_append, List.tail_cons, List.take_succ_cons, hu, List.length_nil,
        List.length_cons, List.length_take, List.length_append]
      rw [if_pos (by omega)]

/-- R105: what extraction gives: the bytes of the buffer from the first header on, at least 7 of them, and the rest. -/
theorem extractFrame_some {buf candidate rest : List Byte} (h : extractFrame buf = some (candidate, rest)) :
    ∃ g tail, header ∉ g ∧ buf = g ++ candidate ++ rest ∧ candidate = header :: tail ∧ 7 ≤ candidate.length := by
  rcases header_split buf with hn | ⟨front, tail, hf, rfl⟩
  · rw [extractFrame_no_header hn] at h; cases h
  · cases he : findFrameEnd (front ++ header :: tail) with
    | none => rw [extractFrame_none_iff.2 he] at h; cases h
    | some e =>
      rw [extractFrame_append hf he] at h
      simp only [Option.some.injEq, Prod.mk.injEq] at h
      obtain ⟨rfl, rfl⟩ := h
      rw [findFrameEnd_append hf] at he
      split at he
      · rename_i a b lh ll tl
        split at he
        · cases he
        · simp only [Option.some.injEq] at he
          subst he
          obtain ⟨m, hm⟩ : ∃ m, front.length + 6 + u16be lh ll + 1 - front.length = m + 1 := ⟨6 + u16be lh ll, by omega⟩
          refine ⟨front, (a :: b :: lh :: ll :: tl).take m, hf, ?_, ?_, ?_⟩
          · rw [hm]
            have hd : (front ++ header :: a :: b :: lh :: ll :: tl).drop (front.length + 6 + u16be lh ll + 1)
                = (header :: a :: b :: lh :: ll :: tl).drop (m + 1) := by
              rw [List.drop_append, List.drop_eq_nil_of_le (by omega), hm, List.nil_append]
            rw [hd, List.append_assoc, List.take_append_drop]
          · rw [hm, List.take_succ_cons]
          · rename_i hfit
            simp only [List.length_take, List.length_cons] at hfit ⊢
            omega
      · cases he

theorem extractFrame_rest_shorter {buf candidate rest : List Byte} (h : extractFrame buf = some (candidate, rest)) :
    rest.length + 7 ≤ buf.length ∧ rest <:+ buf := by
  obtain ⟨g, tail, -, hb, -, h7⟩ := extractFrame_some h
  subst hb
  refine ⟨by simp only [List.length_append]; omega, ?_⟩
  exact ⟨g ++ candidate, rfl⟩

@[simp] theorem resync_dropSpan (buf rest : List Byte) : resync .dropSpan buf rest = rest := rfl

/-- R106: `drop_header_byte` discards the garbage and the first header. -/
theorem resync_dropHeaderByte {front tail : List Byte} (h : header ∉ front) (rest : List Byte) :
    resync .dropHeaderByte (front ++ header :: tail) rest = tail := by
  simp only [resync, findHeader_append h]
  rw [← List.singleton_append, ← List.append_assoc]
  exact List.drop_left' (by simp)

/-- R106: after a candidate that does not parse RXBUF is shorter, and what is left is the end of what was there. -/
theorem resync_shorter (policy : ResyncPolicy) {buf candidate rest : List Byte}
    (h : extractFrame buf = some (candidate, rest)) :
    (resync policy buf rest).length < buf.length ∧ resync policy buf rest <:+ buf := by
  obtain ⟨hlen, hsuf⟩ := extractFrame_rest_shorter h
  cases policy with
  | dropSpan => exact ⟨by simp only [resync]; omega, hsuf⟩
  | dropHeaderByte =>
    simp only [resync]
    split
    · refine ⟨?_, List.drop_suffix _ _⟩
      simp only [List.length_drop]; omega
    · exact ⟨by omega, hsuf⟩

end Sys2Proof.Machine
end

