-- ==== Sys2Proof/Laws/State.lean ====
section
/-! SUPPORT. Beside State: what each named operation leaves unchanged, one lemma per field, so that no proof unfolds a record
update; and the fields it writes, where they are written unconditionally. -/

namespace Sys2Proof.Machine

-- ### beginRun

@[simp] theorem State.beginRun_cfg (s : State) : s.beginRun.cfg = s.cfg := rfl
@[simp] theorem State.beginRun_rxbuf (s : State) : s.beginRun.rxbuf = s.rxbuf := rfl
@[simp] theorem State.beginRun_conn (s : State) : s.beginRun.conn = s.conn := rfl
@[simp] theorem State.beginRun_en (s : State) : s.beginRun.en = s.en := rfl
@[simp] theorem State.beginRun_portOpen (s : State) : s.beginRun.portOpen = s.portOpen := rfl
@[simp] theorem State.beginRun_readerActive (s : State) : s.beginRun.readerActive = s.readerActive := rfl
@[simp] theorem State.beginRun_busy (s : State) : s.beginRun.busy = s.busy := rfl
@[simp] theorem State.beginRun_tx (s : State) : s.beginRun.tx = s.tx := rfl
@[simp] theorem State.beginRun_byteOut (s : State) : s.beginRun.byteOut = s.byteOut := rfl
@[simp] theorem State.beginRun_frameOut (s : State) : s.beginRun.frameOut = s.frameOut := rfl
@[simp] theorem State.beginRun_stateOut (s : State) : s.beginRun.stateOut = s.stateOut := rfl
@[simp] theorem State.beginRun_enOut (s : State) : s.beginRun.enOut = s.enOut := rfl
@[simp] theorem State.beginRun_asked (s : State) : s.beginRun.asked = s.asked := rfl
@[simp] theorem State.beginRun_results (s : State) : s.beginRun.results = s.results := rfl
@[simp] theorem State.beginRun_pending (s : State) : s.beginRun.pending = s.pending := rfl
@[simp] theorem State.beginRun_polling (s : State) : s.beginRun.polling = s.polling := rfl
@[simp] theorem State.beginRun_password (s : State) : s.beginRun.password = s.password := rfl
@[simp] theorem State.beginRun_pollOut (s : State) : s.beginRun.pollOut = s.pollOut := rfl
@[simp] theorem State.beginRun_verifies (s : State) : s.beginRun.verifies = s.verifies := rfl
@[simp] theorem State.beginRun_agenda (s : State) : s.beginRun.agenda = s.agenda := rfl
@[simp] theorem State.beginRun_answers (s : State) : s.beginRun.answers = s.answers := rfl
@[simp] theorem State.beginRun_draws (s : State) : s.beginRun.draws = s.draws := rfl

-- ### enterRun

@[simp] theorem State.enterRun_cfg (i : Instr) (s : State) : (s.enterRun i).cfg = s.cfg := by
  unfold State.enterRun; split <;> rfl
@[simp] theorem State.enterRun_rxbuf (i : Instr) (s : State) : (s.enterRun i).rxbuf = s.rxbuf := by
  unfold State.enterRun; split <;> rfl
@[simp] theorem State.enterRun_conn (i : Instr) (s : State) : (s.enterRun i).conn = s.conn := by
  unfold State.enterRun; split <;> rfl
@[simp] theorem State.enterRun_en (i : Instr) (s : State) : (s.enterRun i).en = s.en := by
  unfold State.enterRun; split <;> rfl
@[simp] theorem State.enterRun_portOpen (i : Instr) (s : State) : (s.enterRun i).portOpen = s.portOpen := by
  unfold State.enterRun; split <;> rfl
@[simp] theorem State.enterRun_readerActive (i : Instr) (s : State) : (s.enterRun i).readerActive = s.readerActive := by
  unfold State.enterRun; split <;> rfl
@[simp] theorem State.enterRun_busy (i : Instr) (s : State) : (s.enterRun i).busy = s.busy := by
  unfold State.enterRun; split <;> rfl
@[simp] theorem State.enterRun_tx (i : Instr) (s : State) : (s.enterRun i).tx = s.tx := by
  unfold State.enterRun; split <;> rfl
@[simp] theorem State.enterRun_byteOut (i : Instr) (s : State) : (s.enterRun i).byteOut = s.byteOut := by
  unfold State.enterRun; split <;> rfl
@[simp] theorem State.enterRun_frameOut (i : Instr) (s : State) : (s.enterRun i).frameOut = s.frameOut := by
  unfold State.enterRun; split <;> rfl
@[simp] theorem State.enterRun_stateOut (i : Instr) (s : State) : (s.enterRun i).stateOut = s.stateOut := by
  unfold State.enterRun; split <;> rfl
@[simp] theorem State.enterRun_enOut (i : Instr) (s : State) : (s.enterRun i).enOut = s.enOut := by
  unfold State.enterRun; split <;> rfl
@[simp] theorem State.enterRun_asked (i : Instr) (s : State) : (s.enterRun i).asked = s.asked := by
  unfold State.enterRun; split <;> rfl
@[simp] theorem State.enterRun_results (i : Instr) (s : State) : (s.enterRun i).results = s.results := by
  unfold State.enterRun; split <;> rfl
@[simp] theorem State.enterRun_pending (i : Instr) (s : State) : (s.enterRun i).pending = s.pending := by
  unfold State.enterRun; split <;> rfl
@[simp] theorem State.enterRun_polling (i : Instr) (s : State) : (s.enterRun i).polling = s.polling := by
  unfold State.enterRun; split <;> rfl
@[simp] theorem State.enterRun_password (i : Instr) (s : State) : (s.enterRun i).password = s.password := by
  unfold State.enterRun; split <;> rfl
@[simp] theorem State.enterRun_pollOut (i : Instr) (s : State) : (s.enterRun i).pollOut = s.pollOut := by
  unfold State.enterRun; split <;> rfl
@[simp] theorem State.enterRun_verifies (i : Instr) (s : State) : (s.enterRun i).verifies = s.verifies := by
  unfold State.enterRun; split <;> rfl
@[simp] theorem State.enterRun_agenda (i : Instr) (s : State) : (s.enterRun i).agenda = s.agenda := by
  unfold State.enterRun; split <;> rfl
@[simp] theorem State.enterRun_answers (i : Instr) (s : State) : (s.enterRun i).answers = s.answers := by
  unfold State.enterRun; split <;> rfl
@[simp] theorem State.enterRun_draws (i : Instr) (s : State) : (s.enterRun i).draws = s.draws := by
  unfold State.enterRun; split <;> rfl

-- ### giveResult

@[simp] theorem State.giveResult_cfg (r : Result) (s : State) : (s.giveResult r).cfg = s.cfg := rfl
@[simp] theorem State.giveResult_rxbuf (r : Result) (s : State) : (s.giveResult r).rxbuf = s.rxbuf := rfl
@[simp] theorem State.giveResult_conn (r : Result) (s : State) : (s.giveResult r).conn = s.conn := rfl
@[simp] theorem State.giveResult_en (r : Result) (s : State) : (s.giveResult r).en = s.en := rfl
@[simp] theorem State.giveResult_portOpen (r : Result) (s : State) : (s.giveResult r).portOpen = s.portOpen := rfl
@[simp] theorem State.giveResult_readerActive (r : Result) (s : State) : (s.giveResult r).readerActive = s.readerActive := rfl
@[simp] theorem State.giveResult_busy (r : Result) (s : State) : (s.giveResult r).busy = s.busy := rfl
@[simp] theorem State.giveResult_runBegun (r : Result) (s : State) : (s.giveResult r).runBegun = s.runBegun := rfl
@[simp] theorem State.giveResult_tx (r : Result) (s : State) : (s.giveResult r).tx = s.tx := rfl
@[simp] theorem State.giveResult_byteOut (r : Result) (s : State) : (s.giveResult r).byteOut = s.byteOut := rfl
@[simp] theorem State.giveResult_frameOut (r : Result) (s : State) : (s.giveResult r).frameOut = s.frameOut := rfl
@[simp] theorem State.giveResult_stateOut (r : Result) (s : State) : (s.giveResult r).stateOut = s.stateOut := rfl
@[simp] theorem State.giveResult_enOut (r : Result) (s : State) : (s.giveResult r).enOut = s.enOut := rfl
@[simp] theorem State.giveResult_asked (r : Result) (s : State) : (s.giveResult r).asked = s.asked := rfl
@[simp] theorem State.giveResult_pending (r : Result) (s : State) : (s.giveResult r).pending = s.pending := rfl
@[simp] theorem State.giveResult_polling (r : Result) (s : State) : (s.giveResult r).polling = s.polling := rfl
@[simp] theorem State.giveResult_password (r : Result) (s : State) : (s.giveResult r).password = s.password := rfl
@[simp] theorem State.giveResult_pollOut (r : Result) (s : State) : (s.giveResult r).pollOut = s.pollOut := rfl
@[simp] theorem State.giveResult_verifies (r : Result) (s : State) : (s.giveResult r).verifies = s.verifies := rfl
@[simp] theorem State.giveResult_agenda (r : Result) (s : State) : (s.giveResult r).agenda = s.agenda := rfl
@[simp] theorem State.giveResult_answers (r : Result) (s : State) : (s.giveResult r).answers = s.answers := rfl
@[simp] theorem State.giveResult_draws (r : Result) (s : State) : (s.giveResult r).draws = s.draws := rfl

-- ### publish

@[simp] theorem State.publish_cfg (c : ConnectionState) (s : State) : (s.publish c).cfg = s.cfg := rfl
@[simp] theorem State.publish_rxbuf (c : ConnectionState) (s : State) : (s.publish c).rxbuf = s.rxbuf := rfl
@[simp] theorem State.publish_en (c : ConnectionState) (s : State) : (s.publish c).en = s.en := rfl
@[simp] theorem State.publish_portOpen (c : ConnectionState) (s : State) : (s.publish c).portOpen = s.portOpen := rfl
@[simp] theorem State.publish_readerActive (c : ConnectionState) (s : State) : (s.publish c).readerActive = s.readerActive := rfl
@[simp] theorem State.publish_busy (c : ConnectionState) (s : State) : (s.publish c).busy = s.busy := rfl
@[simp] theorem State.publish_runBegun (c : ConnectionState) (s : State) : (s.publish c).runBegun = s.runBegun := rfl
@[simp] theorem State.publish_tx (c : ConnectionState) (s : State) : (s.publish c).tx = s.tx := rfl
@[simp] theorem State.publish_byteOut (c : ConnectionState) (s : State) : (s.publish c).byteOut = s.byteOut := rfl
@[simp] theorem State.publish_frameOut (c : ConnectionState) (s : State) : (s.publish c).frameOut = s.frameOut := rfl
@[simp] theorem State.publish_enOut (c : ConnectionState) (s : State) : (s.publish c).enOut = s.enOut := rfl
@[simp] theorem State.publish_asked (c : ConnectionState) (s : State) : (s.publish c).asked = s.asked := rfl
@[simp] theorem State.publish_results (c : ConnectionState) (s : State) : (s.publish c).results = s.results := rfl
@[simp] theorem State.publish_pending (c : ConnectionState) (s : State) : (s.publish c).pending = s.pending := rfl
@[simp] theorem State.publish_polling (c : ConnectionState) (s : State) : (s.publish c).polling = s.polling := rfl
@[simp] theorem State.publish_password (c : ConnectionState) (s : State) : (s.publish c).password = s.password := rfl
@[simp] theorem State.publish_pollOut (c : ConnectionState) (s : State) : (s.publish c).pollOut = s.pollOut := rfl
@[simp] theorem State.publish_verifies (c : ConnectionState) (s : State) : (s.publish c).verifies = s.verifies := rfl
@[simp] theorem State.publish_agenda (c : ConnectionState) (s : State) : (s.publish c).agenda = s.agenda := rfl
@[simp] theorem State.publish_answers (c : ConnectionState) (s : State) : (s.publish c).answers = s.answers := rfl
@[simp] theorem State.publish_draws (c : ConnectionState) (s : State) : (s.publish c).draws = s.draws := rfl

-- ### txEmit

@[simp] theorem State.txEmit_cfg (bs : List Byte) (s : State) : (s.txEmit bs).cfg = s.cfg := rfl
@[simp] theorem State.txEmit_rxbuf (bs : List Byte) (s : State) : (s.txEmit bs).rxbuf = s.rxbuf := rfl
@[simp] theorem State.txEmit_conn (bs : List Byte) (s : State) : (s.txEmit bs).conn = s.conn := rfl
@[simp] theorem State.txEmit_en (bs : List Byte) (s : State) : (s.txEmit bs).en = s.en := rfl
@[simp] theorem State.txEmit_portOpen (bs : List Byte) (s : State) : (s.txEmit bs).portOpen = s.portOpen := rfl
@[simp] theorem State.txEmit_readerActive (bs : List Byte) (s : State) : (s.txEmit bs).readerActive = s.readerActive := rfl
@[simp] theorem State.txEmit_busy (bs : List Byte) (s : State) : (s.txEmit bs).busy = s.busy := rfl
@[simp] theorem State.txEmit_runBegun (bs : List Byte) (s : State) : (s.txEmit bs).runBegun = s.runBegun := rfl
@[simp] theorem State.txEmit_byteOut (bs : List Byte) (s : State) : (s.txEmit bs).byteOut = s.byteOut := rfl
@[simp] theorem State.txEmit_frameOut (bs : List Byte) (s : State) : (s.txEmit bs).frameOut = s.frameOut := rfl
@[simp] theorem State.txEmit_stateOut (bs : List Byte) (s : State) : (s.txEmit bs).stateOut = s.stateOut := rfl
@[simp] theorem State.txEmit_enOut (bs : List Byte) (s : State) : (s.txEmit bs).enOut = s.enOut := rfl
@[simp] theorem State.txEmit_asked (bs : List Byte) (s : State) : (s.txEmit bs).asked = s.asked := rfl
@[simp] theorem State.txEmit_results (bs : List Byte) (s : State) : (s.txEmit bs).results = s.results := rfl
@[simp] theorem State.txEmit_pending (bs : List Byte) (s : State) : (s.txEmit bs).pending = s.pending := rfl
@[simp] theorem State.txEmit_polling (bs : List Byte) (s : State) : (s.txEmit bs).polling = s.polling := rfl
@[simp] theorem State.txEmit_password (bs : List Byte) (s : State) : (s.txEmit bs).password = s.password := rfl
@[simp] theorem State.txEmit_pollOut (bs : List Byte) (s : State) : (s.txEmit bs).pollOut = s.pollOut := rfl
@[simp] theorem State.txEmit_verifies (bs : List Byte) (s : State) : (s.txEmit bs).verifies = s.verifies := rfl
@[simp] theorem State.txEmit_agenda (bs : List Byte) (s : State) : (s.txEmit bs).agenda = s.agenda := rfl
@[simp] theorem State.txEmit_answers (bs : List Byte) (s : State) : (s.txEmit bs).answers = s.answers := rfl
@[simp] theorem State.txEmit_draws (bs : List Byte) (s : State) : (s.txEmit bs).draws = s.draws := rfl

-- ### placeFrame

@[simp] theorem State.placeFrame_cfg (bs : List Byte) (s : State) : (s.placeFrame bs).cfg = s.cfg := rfl
@[simp] theorem State.placeFrame_conn (bs : List Byte) (s : State) : (s.placeFrame bs).conn = s.conn := rfl
@[simp] theorem State.placeFrame_en (bs : List Byte) (s : State) : (s.placeFrame bs).en = s.en := rfl
@[simp] theorem State.placeFrame_portOpen (bs : List Byte) (s : State) : (s.placeFrame bs).portOpen = s.portOpen := rfl
@[simp] theorem State.placeFrame_readerActive (bs : List Byte) (s : State) : (s.placeFrame bs).readerActive = s.readerActive := rfl
@[simp] theorem State.placeFrame_busy (bs : List Byte) (s : State) : (s.placeFrame bs).busy = s.busy := rfl
@[simp] theorem State.placeFrame_runBegun (bs : List Byte) (s : State) : (s.placeFrame bs).runBegun = s.runBegun := rfl
@[simp] theorem State.placeFrame_tx (bs : List Byte) (s : State) : (s.placeFrame bs).tx = s.tx := rfl
@[simp] theorem State.placeFrame_byteOut (bs : List Byte) (s : State) : (s.placeFrame bs).byteOut = s.byteOut := rfl
@[simp] theorem State.placeFrame_frameOut (bs : List Byte) (s : State) : (s.placeFrame bs).frameOut = s.frameOut := rfl
@[simp] theorem State.placeFrame_stateOut (bs : List Byte) (s : State) : (s.placeFrame bs).stateOut = s.stateOut := rfl
@[simp] theorem State.placeFrame_enOut (bs : List Byte) (s : State) : (s.placeFrame bs).enOut = s.enOut := rfl
@[simp] theorem State.placeFrame_asked (bs : List Byte) (s : State) : (s.placeFrame bs).asked = s.asked := rfl
@[simp] theorem State.placeFrame_results (bs : List Byte) (s : State) : (s.placeFrame bs).results = s.results := rfl
@[simp] theorem State.placeFrame_pending (bs : List Byte) (s : State) : (s.placeFrame bs).pending = s.pending := rfl
@[simp] theorem State.placeFrame_polling (bs : List Byte) (s : State) : (s.placeFrame bs).polling = s.polling := rfl
@[simp] theorem State.placeFrame_password (bs : List Byte) (s : State) : (s.placeFrame bs).password = s.password := rfl
@[simp] theorem State.placeFrame_pollOut (bs : List Byte) (s : State) : (s.placeFrame bs).pollOut = s.pollOut := rfl
@[simp] theorem State.placeFrame_verifies (bs : List Byte) (s : State) : (s.placeFrame bs).verifies = s.verifies := rfl
@[simp] theorem State.placeFrame_agenda (bs : List Byte) (s : State) : (s.placeFrame bs).agenda = s.agenda := rfl
@[simp] theorem State.placeFrame_answers (bs : List Byte) (s : State) : (s.placeFrame bs).answers = s.answers := rfl
@[simp] theorem State.placeFrame_draws (bs : List Byte) (s : State) : (s.placeFrame bs).draws = s.draws := rfl

-- ### emitPoll

@[simp] theorem State.emitPoll_cfg (d : TagPollData) (s : State) : (s.emitPoll d).cfg = s.cfg := rfl
@[simp] theorem State.emitPoll_rxbuf (d : TagPollData) (s : State) : (s.emitPoll d).rxbuf = s.rxbuf := rfl
@[simp] theorem State.emitPoll_conn (d : TagPollData) (s : State) : (s.emitPoll d).conn = s.conn := rfl
@[simp] theorem State.emitPoll_en (d : TagPollData) (s : State) : (s.emitPoll d).en = s.en := rfl
@[simp] theorem State.emitPoll_portOpen (d : TagPollData) (s : State) : (s.emitPoll d).portOpen = s.portOpen := rfl
@[simp] theorem State.emitPoll_readerActive (d : TagPollData) (s : State) : (s.emitPoll d).readerActive = s.readerActive := rfl
@[simp] theorem State.emitPoll_busy (d : TagPollData) (s : State) : (s.emitPoll d).busy = s.busy := rfl
@[simp] theorem State.emitPoll_runBegun (d : TagPollData) (s : State) : (s.emitPoll d).runBegun = s.runBegun := rfl
@[simp] theorem State.emitPoll_tx (d : TagPollData) (s : State) : (s.emitPoll d).tx = s.tx := rfl
@[simp] theorem State.emitPoll_byteOut (d : TagPollData) (s : State) : (s.emitPoll d).byteOut = s.byteOut := rfl
@[simp] theorem State.emitPoll_frameOut (d : TagPollData) (s : State) : (s.emitPoll d).frameOut = s.frameOut := rfl
@[simp] theorem State.emitPoll_stateOut (d : TagPollData) (s : State) : (s.emitPoll d).stateOut = s.stateOut := rfl
@[simp] theorem State.emitPoll_enOut (d : TagPollData) (s : State) : (s.emitPoll d).enOut = s.enOut := rfl
@[simp] theorem State.emitPoll_asked (d : TagPollData) (s : State) : (s.emitPoll d).asked = s.asked := rfl
@[simp] theorem State.emitPoll_pending (d : TagPollData) (s : State) : (s.emitPoll d).pending = s.pending := rfl
@[simp] theorem State.emitPoll_polling (d : TagPollData) (s : State) : (s.emitPoll d).polling = s.polling := rfl
@[simp] theorem State.emitPoll_password (d : TagPollData) (s : State) : (s.emitPoll d).password = s.password := rfl
@[simp] theorem State.emitPoll_agenda (d : TagPollData) (s : State) : (s.emitPoll d).agenda = s.agenda := rfl
@[simp] theorem State.emitPoll_answers (d : TagPollData) (s : State) : (s.emitPoll d).answers = s.answers := rfl
@[simp] theorem State.emitPoll_draws (d : TagPollData) (s : State) : (s.emitPoll d).draws = s.draws := rfl

-- ### hostFail

@[simp] theorem State.hostFail_cfg (op : HostOp) (why : HostFailure) (s : State) : (s.hostFail op why).cfg = s.cfg := rfl
@[simp] theorem State.hostFail_rxbuf (op : HostOp) (why : HostFailure) (s : State) : (s.hostFail op why).rxbuf = s.rxbuf := rfl
@[simp] theorem State.hostFail_conn (op : HostOp) (why : HostFailure) (s : State) : (s.hostFail op why).conn = s.conn := rfl
@[simp] theorem State.hostFail_en (op : HostOp) (why : HostFailure) (s : State) : (s.hostFail op why).en = s.en := rfl
@[simp] theorem State.hostFail_portOpen (op : HostOp) (why : HostFailure) (s : State) : (s.hostFail op why).portOpen = s.portOpen := rfl
@[simp] theorem State.hostFail_readerActive (op : HostOp) (why : HostFailure) (s : State) : (s.hostFail op why).readerActive = s.readerActive := rfl
@[simp] theorem State.hostFail_busy (op : HostOp) (why : HostFailure) (s : State) : (s.hostFail op why).busy = s.busy := rfl
@[simp] theorem State.hostFail_runBegun (op : HostOp) (why : HostFailure) (s : State) : (s.hostFail op why).runBegun = s.runBegun := rfl
@[simp] theorem State.hostFail_tx (op : HostOp) (why : HostFailure) (s : State) : (s.hostFail op why).tx = s.tx := rfl
@[simp] theorem State.hostFail_byteOut (op : HostOp) (why : HostFailure) (s : State) : (s.hostFail op why).byteOut = s.byteOut := rfl
@[simp] theorem State.hostFail_frameOut (op : HostOp) (why : HostFailure) (s : State) : (s.hostFail op why).frameOut = s.frameOut := rfl
@[simp] theorem State.hostFail_stateOut (op : HostOp) (why : HostFailure) (s : State) : (s.hostFail op why).stateOut = s.stateOut := rfl
@[simp] theorem State.hostFail_enOut (op : HostOp) (why : HostFailure) (s : State) : (s.hostFail op why).enOut = s.enOut := rfl
@[simp] theorem State.hostFail_asked (op : HostOp) (why : HostFailure) (s : State) : (s.hostFail op why).asked = s.asked := rfl
@[simp] theorem State.hostFail_pending (op : HostOp) (why : HostFailure) (s : State) : (s.hostFail op why).pending = s.pending := rfl
@[simp] theorem State.hostFail_polling (op : HostOp) (why : HostFailure) (s : State) : (s.hostFail op why).polling = s.polling := rfl
@[simp] theorem State.hostFail_password (op : HostOp) (why : HostFailure) (s : State) : (s.hostFail op why).password = s.password := rfl
@[simp] theorem State.hostFail_pollOut (op : HostOp) (why : HostFailure) (s : State) : (s.hostFail op why).pollOut = s.pollOut := rfl
@[simp] theorem State.hostFail_verifies (op : HostOp) (why : HostFailure) (s : State) : (s.hostFail op why).verifies = s.verifies := rfl
@[simp] theorem State.hostFail_agenda (op : HostOp) (why : HostFailure) (s : State) : (s.hostFail op why).agenda = s.agenda := rfl
@[simp] theorem State.hostFail_answers (op : HostOp) (why : HostFailure) (s : State) : (s.hostFail op why).answers = s.answers := rfl
@[simp] theorem State.hostFail_draws (op : HostOp) (why : HostFailure) (s : State) : (s.hostFail op why).draws = s.draws := rfl

-- ### hostArgumentFail

@[simp] theorem State.hostArgumentFail_cfg (op : HostOp) (which : ArgumentName) (s : State) : (s.hostArgumentFail op which).cfg = s.cfg := rfl
@[simp] theorem State.hostArgumentFail_rxbuf (op : HostOp) (which : ArgumentName) (s : State) : (s.hostArgumentFail op which).rxbuf = s.rxbuf := rfl
@[simp] theorem State.hostArgumentFail_conn (op : HostOp) (which : ArgumentName) (s : State) : (s.hostArgumentFail op which).conn = s.conn := rfl
@[simp] theorem State.hostArgumentFail_en (op : HostOp) (which : ArgumentName) (s : State) : (s.hostArgumentFail op which).en = s.en := rfl
@[simp] theorem State.hostArgumentFail_portOpen (op : HostOp) (which : ArgumentName) (s : State) : (s.hostArgumentFail op which).portOpen = s.portOpen := rfl
@[simp] theorem State.hostArgumentFail_readerActive (op : HostOp) (which : ArgumentName) (s : State) : (s.hostArgumentFail op which).readerActive = s.readerActive := rfl
@[simp] theorem State.hostArgumentFail_busy (op : HostOp) (which : ArgumentName) (s : State) : (s.hostArgumentFail op which).busy = s.busy := rfl
@[simp] theorem State.hostArgumentFail_runBegun (op : HostOp) (which : ArgumentName) (s : State) : (s.hostArgumentFail op which).runBegun = s.runBegun := rfl
@[simp] theorem State.hostArgumentFail_tx (op : HostOp) (which : ArgumentName) (s : State) : (s.hostArgumentFail op which).tx = s.tx := rfl
@[simp] theorem State.hostArgumentFail_byteOut (op : HostOp) (which : ArgumentName) (s : State) : (s.hostArgumentFail op which).byteOut = s.byteOut := rfl
@[simp] theorem State.hostArgumentFail_frameOut (op : HostOp) (which : ArgumentName) (s : State) : (s.hostArgumentFail op which).frameOut = s.frameOut := rfl
@[simp] theorem State.hostArgumentFail_stateOut (op : HostOp) (which : ArgumentName) (s : State) : (s.hostArgumentFail op which).stateOut = s.stateOut := rfl
@[simp] theorem State.hostArgumentFail_enOut (op : HostOp) (which : ArgumentName) (s : State) : (s.hostArgumentFail op which).enOut = s.enOut := rfl
@[simp] theorem State.hostArgumentFail_asked (op : HostOp) (which : ArgumentName) (s : State) : (s.hostArgumentFail op which).asked = s.asked := rfl
@[simp] theorem State.hostArgumentFail_pending (op : HostOp) (which : ArgumentName) (s : State) : (s.hostArgumentFail op which).pending = s.pending := rfl
@[simp] theorem State.hostArgumentFail_polling (op : HostOp) (which : ArgumentName) (s : State) : (s.hostArgumentFail op which).polling = s.polling := rfl
@[simp] theorem State.hostArgumentFail_password (op : HostOp) (which : ArgumentName) (s : State) : (s.hostArgumentFail op which).password = s.password := rfl
@[simp] theorem State.hostArgumentFail_pollOut (op : HostOp) (which : ArgumentName) (s : State) : (s.hostArgumentFail op which).pollOut = s.pollOut := rfl
@[simp] theorem State.hostArgumentFail_verifies (op : HostOp) (which : ArgumentName) (s : State) : (s.hostArgumentFail op which).verifies = s.verifies := rfl
@[simp] theorem State.hostArgumentFail_agenda (op : HostOp) (which : ArgumentName) (s : State) : (s.hostArgumentFail op which).agenda = s.agenda := rfl
@[simp] theorem State.hostArgumentFail_answers (op : HostOp) (which : ArgumentName) (s : State) : (s.hostArgumentFail op which).answers = s.answers := rfl

-- ### driveEn

@[simp] theorem State.driveEn_cfg (l : Line) (s : State) : (s.driveEn l).cfg = s.cfg := by
  unfold State.driveEn; split <;> rfl
@[simp] theorem State.driveEn_rxbuf (l : Line) (s : State) : (s.driveEn l).rxbuf = s.rxbuf := by
  unfold State.driveEn; split <;> rfl
@[simp] theorem State.driveEn_conn (l : Line) (s : State) : (s.driveEn l).conn = s.conn := by
  unfold State.driveEn; split <;> rfl
@[simp] theorem State.driveEn_portOpen (l : Line) (s : State) : (s.driveEn l).portOpen = s.portOpen := by
  unfold State.driveEn; split <;> rfl
@[simp] theorem State.driveEn_readerActive (l : Line) (s : State) : (s.driveEn l).readerActive = s.readerActive := by
  unfold State.driveEn; split <;> rfl
@[simp] theorem State.driveEn_busy (l : Line) (s : State) : (s.driveEn l).busy = s.busy := by
  unfold State.driveEn; split <;> rfl
@[simp] theorem State.driveEn_runBegun (l : Line) (s : State) : (s.driveEn l).runBegun = s.runBegun := by
  unfold State.driveEn; split <;> rfl
@[simp] theorem State.driveEn_tx (l : Line) (s : State) : (s.driveEn l).tx = s.tx := by
  unfold State.driveEn; split <;> rfl
@[simp] theorem State.driveEn_byteOut (l : Line) (s : State) : (s.driveEn l).byteOut = s.byteOut := by
  unfold State.driveEn; split <;> rfl
@[simp] theorem State.driveEn_frameOut (l : Line) (s : State) : (s.driveEn l).frameOut = s.frameOut := by
  unfold State.driveEn; split <;> rfl
@[simp] theorem State.driveEn_stateOut (l : Line) (s : State) : (s.driveEn l).stateOut = s.stateOut := by
  unfold State.driveEn; split <;> rfl
@[simp] theorem State.driveEn_asked (l : Line) (s : State) : (s.driveEn l).asked = s.asked := by
  unfold State.driveEn; split <;> rfl
@[simp] theorem State.driveEn_results (l : Line) (s : State) : (s.driveEn l).results = s.results := by
  unfold State.driveEn; split <;> rfl
@[simp] theorem State.driveEn_pending (l : Line) (s : State) : (s.driveEn l).pending = s.pending := by
  unfold State.driveEn; split <;> rfl
@[simp] theorem State.driveEn_polling (l : Line) (s : State) : (s.driveEn l).polling = s.polling := by
  unfold State.driveEn; split <;> rfl
@[simp] theorem State.driveEn_password (l : Line) (s : State) : (s.driveEn l).password = s.password := by
  unfold State.driveEn; split <;> rfl
@[simp] theorem State.driveEn_pollOut (l : Line) (s : State) : (s.driveEn l).pollOut = s.pollOut := by
  unfold State.driveEn; split <;> rfl
@[simp] theorem State.driveEn_verifies (l : Line) (s : State) : (s.driveEn l).verifies = s.verifies := by
  unfold State.driveEn; split <;> rfl
@[simp] theorem State.driveEn_agenda (l : Line) (s : State) : (s.driveEn l).agenda = s.agenda := by
  unfold State.driveEn; split <;> rfl
@[simp] theorem State.driveEn_answers (l : Line) (s : State) : (s.driveEn l).answers = s.answers := by
  unfold State.driveEn; split <;> rfl
@[simp] theorem State.driveEn_draws (l : Line) (s : State) : (s.driveEn l).draws = s.draws := by
  unfold State.driveEn; split <;> rfl

-- ### beginConnect

@[simp] theorem State.beginConnect_cfg (port : Text) (baud : Nat) (s : State) : (s.beginConnect port baud).cfg = s.cfg := State.driveEn_cfg _ s
@[simp] theorem State.beginConnect_rxbuf (port : Text) (baud : Nat) (s : State) : (s.beginConnect port baud).rxbuf = s.rxbuf := State.driveEn_rxbuf _ s
@[simp] theorem State.beginConnect_portOpen (port : Text) (baud : Nat) (s : State) : (s.beginConnect port baud).portOpen = s.portOpen := State.driveEn_portOpen _ s
@[simp] theorem State.beginConnect_readerActive (port : Text) (baud : Nat) (s : State) : (s.beginConnect port baud).readerActive = s.readerActive := State.driveEn_readerActive _ s
@[simp] theorem State.beginConnect_runBegun (port : Text) (baud : Nat) (s : State) : (s.beginConnect port baud).runBegun = s.runBegun := State.driveEn_runBegun _ s
@[simp] theorem State.beginConnect_tx (port : Text) (baud : Nat) (s : State) : (s.beginConnect port baud).tx = s.tx := State.driveEn_tx _ s
@[simp] theorem State.beginConnect_byteOut (port : Text) (baud : Nat) (s : State) : (s.beginConnect port baud).byteOut = s.byteOut := State.driveEn_byteOut _ s
@[simp] theorem State.beginConnect_frameOut (port : Text) (baud : Nat) (s : State) : (s.beginConnect port baud).frameOut = s.frameOut := State.driveEn_frameOut _ s
@[simp] theorem State.beginConnect_asked (port : Text) (baud : Nat) (s : State) : (s.beginConnect port baud).asked = s.asked := State.driveEn_asked _ s
@[simp] theorem State.beginConnect_results (port : Text) (baud : Nat) (s : State) : (s.beginConnect port baud).results = s.results := State.driveEn_results _ s
@[simp] theorem State.beginConnect_pending (port : Text) (baud : Nat) (s : State) : (s.beginConnect port baud).pending = s.pending := State.driveEn_pending _ s
@[simp] theorem State.beginConnect_polling (port : Text) (baud : Nat) (s : State) : (s.beginConnect port baud).polling = s.polling := State.driveEn_polling _ s
@[simp] theorem State.beginConnect_password (port : Text) (baud : Nat) (s : State) : (s.beginConnect port baud).password = s.password := State.driveEn_password _ s
@[simp] theorem State.beginConnect_pollOut (port : Text) (baud : Nat) (s : State) : (s.beginConnect port baud).pollOut = s.pollOut := State.driveEn_pollOut _ s
@[simp] theorem State.beginConnect_verifies (port : Text) (baud : Nat) (s : State) : (s.beginConnect port baud).verifies = s.verifies := State.driveEn_verifies _ s
@[simp] theorem State.beginConnect_agenda (port : Text) (baud : Nat) (s : State) : (s.beginConnect port baud).agenda = s.agenda := State.driveEn_agenda _ s
@[simp] theorem State.beginConnect_answers (port : Text) (baud : Nat) (s : State) : (s.beginConnect port baud).answers = s.answers := State.driveEn_answers _ s
@[simp] theorem State.beginConnect_draws (port : Text) (baud : Nat) (s : State) : (s.beginConnect port baud).draws = s.draws := State.driveEn_draws _ s

-- ### enterError

@[simp] theorem State.enterError_cfg (p : HwerrEnPolicy) (msg : Text) (s : State) : (s.enterError p msg).cfg = s.cfg := State.driveEn_cfg _ s
@[simp] theorem State.enterError_rxbuf (p : HwerrEnPolicy) (msg : Text) (s : State) : (s.enterError p msg).rxbuf = s.rxbuf := State.driveEn_rxbuf _ s
@[simp] theorem State.enterError_busy (p : HwerrEnPolicy) (msg : Text) (s : State) : (s.enterError p msg).busy = s.busy := State.driveEn_busy _ s
@[simp] theorem State.enterError_runBegun (p : HwerrEnPolicy) (msg : Text) (s : State) : (s.enterError p msg).runBegun = s.runBegun := State.driveEn_runBegun _ s
@[simp] theorem State.enterError_tx (p : HwerrEnPolicy) (msg : Text) (s : State) : (s.enterError p msg).tx = s.tx := State.driveEn_tx _ s
@[simp] theorem State.enterError_byteOut (p : HwerrEnPolicy) (msg : Text) (s : State) : (s.enterError p msg).byteOut = s.byteOut := State.driveEn_byteOut _ s
@[simp] theorem State.enterError_frameOut (p : HwerrEnPolicy) (msg : Text) (s : State) : (s.enterError p msg).frameOut = s.frameOut := State.driveEn_frameOut _ s
@[simp] theorem State.enterError_asked (p : HwerrEnPolicy) (msg : Text) (s : State) : (s.enterError p msg).asked = s.asked := State.driveEn_asked _ s
@[simp] theorem State.enterError_results (p : HwerrEnPolicy) (msg : Text) (s : State) : (s.enterError p msg).results = s.results := State.driveEn_results _ s
@[simp] theorem State.enterError_pending (p : HwerrEnPolicy) (msg : Text) (s : State) : (s.enterError p msg).pending = s.pending := State.driveEn_pending _ s
@[simp] theorem State.enterError_polling (p : HwerrEnPolicy) (msg : Text) (s : State) : (s.enterError p msg).polling = s.polling := State.driveEn_polling _ s
@[simp] theorem State.enterError_password (p : HwerrEnPolicy) (msg : Text) (s : State) : (s.enterError p msg).password = s.password := State.driveEn_password _ s
@[simp] theorem State.enterError_pollOut (p : HwerrEnPolicy) (msg : Text) (s : State) : (s.enterError p msg).pollOut = s.pollOut := State.driveEn_pollOut _ s
@[simp] theorem State.enterError_verifies (p : HwerrEnPolicy) (msg : Text) (s : State) : (s.enterError p msg).verifies = s.verifies := State.driveEn_verifies _ s
@[simp] theorem State.enterError_agenda (p : HwerrEnPolicy) (msg : Text) (s : State) : (s.enterError p msg).agenda = s.agenda := State.driveEn_agenda _ s
@[simp] theorem State.enterError_answers (p : HwerrEnPolicy) (msg : Text) (s : State) : (s.enterError p msg).answers = s.answers := State.driveEn_answers _ s

-- ### connectFailed

@[simp] theorem State.connectFailed_cfg (msg : Text) (s : State) : (s.connectFailed msg).cfg = s.cfg := State.enterError_cfg _ msg s
@[simp] theorem State.connectFailed_rxbuf (msg : Text) (s : State) : (s.connectFailed msg).rxbuf = s.rxbuf := State.enterError_rxbuf _ msg s
@[simp] theorem State.connectFailed_runBegun (msg : Text) (s : State) : (s.connectFailed msg).runBegun = s.runBegun := State.enterError_runBegun _ msg s
@[simp] theorem State.connectFailed_tx (msg : Text) (s : State) : (s.connectFailed msg).tx = s.tx := State.enterError_tx _ msg s
@[simp] theorem State.connectFailed_byteOut (msg : Text) (s : State) : (s.connectFailed msg).byteOut = s.byteOut := State.enterError_byteOut _ msg s
@[simp] theorem State.connectFailed_frameOut (msg : Text) (s : State) : (s.connectFailed msg).frameOut = s.frameOut := State.enterError_frameOut _ msg s
@[simp] theorem State.connectFailed_asked (msg : Text) (s : State) : (s.connectFailed msg).asked = s.asked := State.enterError_asked _ msg s
@[simp] theorem State.connectFailed_pending (msg : Text) (s : State) : (s.connectFailed msg).pending = s.pending := State.enterError_pending _ msg s
@[simp] theorem State.connectFailed_polling (msg : Text) (s : State) : (s.connectFailed msg).polling = s.polling := State.enterError_polling _ msg s
@[simp] theorem State.connectFailed_password (msg : Text) (s : State) : (s.connectFailed msg).password = s.password := State.enterError_password _ msg s
@[simp] theorem State.connectFailed_pollOut (msg : Text) (s : State) : (s.connectFailed msg).pollOut = s.pollOut := State.enterError_pollOut _ msg s
@[simp] theorem State.connectFailed_verifies (msg : Text) (s : State) : (s.connectFailed msg).verifies = s.verifies := State.enterError_verifies _ msg s
@[simp] theorem State.connectFailed_agenda (msg : Text) (s : State) : (s.connectFailed msg).agenda = s.agenda := State.enterError_agenda _ msg s
@[simp] theorem State.connectFailed_answers (msg : Text) (s : State) : (s.connectFailed msg).answers = s.answers := State.enterError_answers _ msg s

-- ### cancelHost

@[simp] theorem State.cancelHost_cfg (s : State) : s.cancelHost.cfg = s.cfg := by
  unfold State.cancelHost; split <;> rfl
@[simp] theorem State.cancelHost_rxbuf (s : State) : s.cancelHost.rxbuf = s.rxbuf := by
  unfold State.cancelHost; split <;> rfl
@[simp] theorem State.cancelHost_conn (s : State) : s.cancelHost.conn = s.conn := by
  unfold State.cancelHost; split <;> rfl
@[simp] theorem State.cancelHost_en (s : State) : s.cancelHost.en = s.en := by
  unfold State.cancelHost; split <;> rfl
@[simp] theorem State.cancelHost_portOpen (s : State) : s.cancelHost.portOpen = s.portOpen := by
  unfold State.cancelHost; split <;> rfl
@[simp] theorem State.cancelHost_readerActive (s : State) : s.cancelHost.readerActive = s.readerActive := by
  unfold State.cancelHost; split <;> rfl
@[simp] theorem State.cancelHost_busy (s : State) : s.cancelHost.busy = s.busy := by
  unfold State.cancelHost; split <;> rfl
@[simp] theorem State.cancelHost_runBegun (s : State) : s.cancelHost.runBegun = s.runBegun := by
  unfold State.cancelHost; split <;> rfl
@[simp] theorem State.cancelHost_tx (s : State) : s.cancelHost.tx = s.tx := by
  unfold State.cancelHost; split <;> rfl
@[simp] theorem State.cancelHost_byteOut (s : State) : s.cancelHost.byteOut = s.byteOut := by
  unfold State.cancelHost; split <;> rfl
@[simp] theorem State.cancelHost_frameOut (s : State) : s.cancelHost.frameOut = s.frameOut := by
  unfold State.cancelHost; split <;> rfl
@[simp] theorem State.cancelHost_stateOut (s : State) : s.cancelHost.stateOut = s.stateOut := by
  unfold State.cancelHost; split <;> rfl
@[simp] theorem State.cancelHost_enOut (s : State) : s.cancelHost.enOut = s.enOut := by
  unfold State.cancelHost; split <;> rfl
@[simp] theorem State.cancelHost_asked (s : State) : s.cancelHost.asked = s.asked := by
  unfold State.cancelHost; split <;> rfl
@[simp] theorem State.cancelHost_password (s : State) : s.cancelHost.password = s.password := by
  unfold State.cancelHost; split <;> rfl
@[simp] theorem State.cancelHost_pollOut (s : State) : s.cancelHost.pollOut = s.pollOut := by
  unfold State.cancelHost; split <;> rfl
@[simp] theorem State.cancelHost_verifies (s : State) : s.cancelHost.verifies = s.verifies := by
  unfold State.cancelHost; split <;> rfl
@[simp] theorem State.cancelHost_agenda (s : State) : s.cancelHost.agenda = s.agenda := by
  unfold State.cancelHost; split <;> rfl
@[simp] theorem State.cancelHost_answers (s : State) : s.cancelHost.answers = s.answers := by
  unfold State.cancelHost; split <;> rfl
@[simp] theorem State.cancelHost_draws (s : State) : s.cancelHost.draws = s.draws := by
  unfold State.cancelHost; split <;> rfl

-- ### giveBuilt

@[simp] theorem State.giveBuilt_cfg (b : Except ArgumentName (List Byte)) (s : State) : (s.giveBuilt b).cfg = s.cfg := by
  unfold State.giveBuilt; split <;> rfl
@[simp] theorem State.giveBuilt_rxbuf (b : Except ArgumentName (List Byte)) (s : State) : (s.giveBuilt b).rxbuf = s.rxbuf := by
  unfold State.giveBuilt; split <;> rfl
@[simp] theorem State.giveBuilt_conn (b : Except ArgumentName (List Byte)) (s : State) : (s.giveBuilt b).conn = s.conn := by
  unfold State.giveBuilt; split <;> rfl
@[simp] theorem State.giveBuilt_en (b : Except ArgumentName (List Byte)) (s : State) : (s.giveBuilt b).en = s.en := by
  unfold State.giveBuilt; split <;> rfl
@[simp] theorem State.giveBuilt_portOpen (b : Except ArgumentName (List Byte)) (s : State) : (s.giveBuilt b).portOpen = s.portOpen := by
  unfold State.giveBuilt; split <;> rfl
@[simp] theorem State.giveBuilt_readerActive (b : Except ArgumentName (List Byte)) (s : State) : (s.giveBuilt b).readerActive = s.readerActive := by
  unfold State.giveBuilt; split <;> rfl
@[simp] theorem State.giveBuilt_busy (b : Except ArgumentName (List Byte)) (s : State) : (s.giveBuilt b).busy = s.busy := by
  unfold State.giveBuilt; split <;> rfl
@[simp] theorem State.giveBuilt_runBegun (b : Except ArgumentName (List Byte)) (s : State) : (s.giveBuilt b).runBegun = s.runBegun := by
  unfold State.giveBuilt; split <;> rfl
@[simp] theorem State.giveBuilt_tx (b : Except ArgumentName (List Byte)) (s : State) : (s.giveBuilt b).tx = s.tx := by
  unfold State.giveBuilt; split <;> rfl
@[simp] theorem State.giveBuilt_byteOut (b : Except ArgumentName (List Byte)) (s : State) : (s.giveBuilt b).byteOut = s.byteOut := by
  unfold State.giveBuilt; split <;> rfl
@[simp] theorem State.giveBuilt_frameOut (b : Except ArgumentName (List Byte)) (s : State) : (s.giveBuilt b).frameOut = s.frameOut := by
  unfold State.giveBuilt; split <;> rfl
@[simp] theorem State.giveBuilt_stateOut (b : Except ArgumentName (List Byte)) (s : State) : (s.giveBuilt b).stateOut = s.stateOut := by
  unfold State.giveBuilt; split <;> rfl
@[simp] theorem State.giveBuilt_enOut (b : Except ArgumentName (List Byte)) (s : State) : (s.giveBuilt b).enOut = s.enOut := by
  unfold State.giveBuilt; split <;> rfl
@[simp] theorem State.giveBuilt_asked (b : Except ArgumentName (List Byte)) (s : State) : (s.giveBuilt b).asked = s.asked := by
  unfold State.giveBuilt; split <;> rfl
@[simp] theorem State.giveBuilt_pending (b : Except ArgumentName (List Byte)) (s : State) : (s.giveBuilt b).pending = s.pending := by
  unfold State.giveBuilt; split <;> rfl
@[simp] theorem State.giveBuilt_polling (b : Except ArgumentName (List Byte)) (s : State) : (s.giveBuilt b).polling = s.polling := by
  unfold State.giveBuilt; split <;> rfl
@[simp] theorem State.giveBuilt_password (b : Except ArgumentName (List Byte)) (s : State) : (s.giveBuilt b).password = s.password := by
  unfold State.giveBuilt; split <;> rfl
@[simp] theorem State.giveBuilt_pollOut (b : Except ArgumentName (List Byte)) (s : State) : (s.giveBuilt b).pollOut = s.pollOut := by
  unfold State.giveBuilt; split <;> rfl
@[simp] theorem State.giveBuilt_verifies (b : Except ArgumentName (List Byte)) (s : State) : (s.giveBuilt b).verifies = s.verifies := by
  unfold State.giveBuilt; split <;> rfl
@[simp] theorem State.giveBuilt_agenda (b : Except ArgumentName (List Byte)) (s : State) : (s.giveBuilt b).agenda = s.agenda := by
  unfold State.giveBuilt; split <;> rfl
@[simp] theorem State.giveBuilt_answers (b : Except ArgumentName (List Byte)) (s : State) : (s.giveBuilt b).answers = s.answers := by
  unfold State.giveBuilt; split <;> rfl

-- ### dispatchResponse

@[simp] theorem State.dispatchResponse_cfg (f : Frame) (s : State) : (s.dispatchResponse f).cfg = s.cfg := by
  unfold State.dispatchResponse; split
  · split <;> rfl
  · rfl
@[simp] theorem State.dispatchResponse_rxbuf (f : Frame) (s : State) : (s.dispatchResponse f).rxbuf = s.rxbuf := by
  unfold State.dispatchResponse; split
  · split <;> rfl
  · rfl
@[simp] theorem State.dispatchResponse_conn (f : Frame) (s : State) : (s.dispatchResponse f).conn = s.conn := by
  unfold State.dispatchResponse; split
  · split <;> rfl
  · rfl
@[simp] theorem State.dispatchResponse_en (f : Frame) (s : State) : (s.dispatchResponse f).en = s.en := by
  unfold State.dispatchResponse; split
  · split <;> rfl
  · rfl
@[simp] theorem State.dispatchResponse_portOpen (f : Frame) (s : State) : (s.dispatchResponse f).portOpen = s.portOpen := by
  unfold State.dispatchResponse; split
  · split <;> rfl
  · rfl
@[simp] theorem State.dispatchResponse_readerActive (f : Frame) (s : State) : (s.dispatchResponse f).readerActive = s.readerActive := by
  unfold State.dispatchResponse; split
  · split <;> rfl
  · rfl
@[simp] theorem State.dispatchResponse_busy (f : Frame) (s : State) : (s.dispatchResponse f).busy = s.busy := by
  unfold State.dispatchResponse; split
  · split <;> rfl
  · rfl
@[simp] theorem State.dispatchResponse_runBegun (f : Frame) (s : State) : (s.dispatchResponse f).runBegun = s.runBegun := by
  unfold State.dispatchResponse; split
  · split <;> rfl
  · rfl
@[simp] theorem State.dispatchResponse_tx (f : Frame) (s : State) : (s.dispatchResponse f).tx = s.tx := by
  unfold State.dispatchResponse; split
  · split <;> rfl
  · rfl
@[simp] theorem State.dispatchResponse_byteOut (f : Frame) (s : State) : (s.dispatchResponse f).byteOut = s.byteOut := by
  unfold State.dispatchResponse; split
  · split <;> rfl
  · rfl
@[simp] theorem State.dispatchResponse_frameOut (f : Frame) (s : State) : (s.dispatchResponse f).frameOut = s.frameOut := by
  unfold State.dispatchResponse; split
  · split <;> rfl
  · rfl
@[simp] theorem State.dispatchResponse_stateOut (f : Frame) (s : State) : (s.dispatchResponse f).stateOut = s.stateOut := by
  unfold State.dispatchResponse; split
  · split <;> rfl
  · rfl
@[simp] theorem State.dispatchResponse_enOut (f : Frame) (s : State) : (s.dispatchResponse f).enOut = s.enOut := by
  unfold State.dispatchResponse; split
  · split <;> rfl
  · rfl
@[simp] theorem State.dispatchResponse_asked (f : Frame) (s : State) : (s.dispatchResponse f).asked = s.asked := by
  unfold State.dispatchResponse; split
  · split <;> rfl
  · rfl
@[simp] theorem State.dispatchResponse_polling (f : Frame) (s : State) : (s.dispatchResponse f).polling = s.polling := by
  unfold State.dispatchResponse; split
  · split <;> rfl
  · rfl
@[simp] theorem State.dispatchResponse_password (f : Frame) (s : State) : (s.dispatchResponse f).password = s.password := by
  unfold State.dispatchResponse; split
  · split <;> rfl
  · rfl
@[simp] theorem State.dispatchResponse_pollOut (f : Frame) (s : State) : (s.dispatchResponse f).pollOut = s.pollOut := by
  unfold State.dispatchResponse; split
  · split <;> rfl
  · rfl
@[simp] theorem State.dispatchResponse_verifies (f : Frame) (s : State) : (s.dispatchResponse f).verifies = s.verifies := by
  unfold State.dispatchResponse; split
  · split <;> rfl
  · rfl
@[simp] theorem State.dispatchResponse_agenda (f : Frame) (s : State) : (s.dispatchResponse f).agenda = s.agenda := by
  unfold State.dispatchResponse; split
  · split <;> rfl
  · rfl
@[simp] theorem State.dispatchResponse_answers (f : Frame) (s : State) : (s.dispatchResponse f).answers = s.answers := by
  unfold State.dispatchResponse; split
  · split <;> rfl
  · rfl
@[simp] theorem State.dispatchResponse_draws (f : Frame) (s : State) : (s.dispatchResponse f).draws = s.draws := by
  unfold State.dispatchResponse; split
  · split <;> rfl
  · rfl

-- ### dispatchNotice

@[simp] theorem State.dispatchNotice_cfg (f : Frame) (s : State) : (s.dispatchNotice f).cfg = s.cfg := by
  unfold State.dispatchNotice; split
  · split <;> rfl
  · rfl
@[simp] theorem State.dispatchNotice_rxbuf (f : Frame) (s : State) : (s.dispatchNotice f).rxbuf = s.rxbuf := by
  unfold State.dispatchNotice; split
  · split <;> rfl
  · rfl
@[simp] theorem State.dispatchNotice_conn (f : Frame) (s : State) : (s.dispatchNotice f).conn = s.conn := by
  unfold State.dispatchNotice; split
  · split <;> rfl
  · rfl
@[simp] theorem State.dispatchNotice_en (f : Frame) (s : State) : (s.dispatchNotice f).en = s.en := by
  unfold State.dispatchNotice; split
  · split <;> rfl
  · rfl
@[simp] theorem State.dispatchNotice_portOpen (f : Frame) (s : State) : (s.dispatchNotice f).portOpen = s.portOpen := by
  unfold State.dispatchNotice; split
  · split <;> rfl
  · rfl
@[simp] theorem State.dispatchNotice_readerActive (f : Frame) (s : State) : (s.dispatchNotice f).readerActive = s.readerActive := by
  unfold State.dispatchNotice; split
  · split <;> rfl
  · rfl
@[simp] theorem State.dispatchNotice_busy (f : Frame) (s : State) : (s.dispatchNotice f).busy = s.busy := by
  unfold State.dispatchNotice; split
  · split <;> rfl
  · rfl
@[simp] theorem State.dispatchNotice_runBegun (f : Frame) (s : State) : (s.dispatchNotice f).runBegun = s.runBegun := by
  unfold State.dispatchNotice; split
  · split <;> rfl
  · rfl
@[simp] theorem State.dispatchNotice_tx (f : Frame) (s : State) : (s.dispatchNotice f).tx = s.tx := by
  unfold State.dispatchNotice; split
  · split <;> rfl
  · rfl
@[simp] theorem State.dispatchNotice_byteOut (f : Frame) (s : State) : (s.dispatchNotice f).byteOut = s.byteOut := by
  unfold State.dispatchNotice; split
  · split <;> rfl
  · rfl
@[simp] theorem State.dispatchNotice_frameOut (f : Frame) (s : State) : (s.dispatchNotice f).frameOut = s.frameOut := by
  unfold State.dispatchNotice; split
  · split <;> rfl
  · rfl
@[simp] theorem State.dispatchNotice_stateOut (f : Frame) (s : State) : (s.dispatchNotice f).stateOut = s.stateOut := by
  unfold State.dispatchNotice; split
  · split <;> rfl
  · rfl
@[simp] theorem State.dispatchNotice_enOut (f : Frame) (s : State) : (s.dispatchNotice f).enOut = s.enOut := by
  unfold State.dispatchNotice; split
  · split <;> rfl
  · rfl
@[simp] theorem State.dispatchNotice_asked (f : Frame) (s : State) : (s.dispatchNotice f).asked = s.asked := by
  unfold State.dispatchNotice; split
  · split <;> rfl
  · rfl
@[simp] theorem State.dispatchNotice_pending (f : Frame) (s : State) : (s.dispatchNotice f).pending = s.pending := by
  unfold State.dispatchNotice; split
  · split <;> rfl
  · rfl
@[simp] theorem State.dispatchNotice_polling (f : Frame) (s : State) : (s.dispatchNotice f).polling = s.polling := by
  unfold State.dispatchNotice; split
  · split <;> rfl
  · rfl
@[simp] theorem State.dispatchNotice_password (f : Frame) (s : State) : (s.dispatchNotice f).password = s.password := by
  unfold State.dispatchNotice; split
  · split <;> rfl
  · rfl
@[simp] theorem State.dispatchNotice_agenda (f : Frame) (s : State) : (s.dispatchNotice f).agenda = s.agenda := by
  unfold State.dispatchNotice; split
  · split <;> rfl
  · rfl
@[simp] theorem State.dispatchNotice_answers (f : Frame) (s : State) : (s.dispatchNotice f).answers = s.answers := by
  unfold State.dispatchNotice; split
  · split <;> rfl
  · rfl
@[simp] theorem State.dispatchNotice_draws (f : Frame) (s : State) : (s.dispatchNotice f).draws = s.draws := by
  unfold State.dispatchNotice; split
  · split <;> rfl
  · rfl

-- ### dispatchFrame

@[simp] theorem State.dispatchFrame_cfg (f : Frame) (s : State) : (s.dispatchFrame f).cfg = s.cfg := by
  unfold State.dispatchFrame; split <;> simp
@[simp] theorem State.dispatchFrame_rxbuf (f : Frame) (s : State) : (s.dispatchFrame f).rxbuf = s.rxbuf := by
  unfold State.dispatchFrame; split <;> simp
@[simp] theorem State.dispatchFrame_conn (f : Frame) (s : State) : (s.dispatchFrame f).conn = s.conn := by
  unfold State.dispatchFrame; split <;> simp
@[simp] theorem State.dispatchFrame_en (f : Frame) (s : State) : (s.dispatchFrame f).en = s.en := by
  unfold State.dispatchFrame; split <;> simp
@[simp] theorem State.dispatchFrame_portOpen (f : Frame) (s : State) : (s.dispatchFrame f).portOpen = s.portOpen := by
  unfold State.dispatchFrame; split <;> simp
@[simp] theorem State.dispatchFrame_readerActive (f : Frame) (s : State) : (s.dispatchFrame f).readerActive = s.readerActive := by
  unfold State.dispatchFrame; split <;> simp
@[simp] theorem State.dispatchFrame_busy (f : Frame) (s : State) : (s.dispatchFrame f).busy = s.busy := by
  unfold State.dispatchFrame; split <;> simp
@[simp] theorem State.dispatchFrame_runBegun (f : Frame) (s : State) : (s.dispatchFrame f).runBegun = s.runBegun := by
  unfold State.dispatchFrame; split <;> simp
@[simp] theorem State.dispatchFrame_tx (f : Frame) (s : State) : (s.dispatchFrame f).tx = s.tx := by
  unfold State.dispatchFrame; split <;> simp
@[simp] theorem State.dispatchFrame_byteOut (f : Frame) (s : State) : (s.dispatchFrame f).byteOut = s.byteOut := by
  unfold State.dispatchFrame; split <;> simp
@[simp] theorem State.dispatchFrame_frameOut (f : Frame) (s : State) : (s.dispatchFrame f).frameOut = s.frameOut := by
  unfold State.dispatchFrame; split <;> simp
@[simp] theorem State.dispatchFrame_stateOut (f : Frame) (s : State) : (s.dispatchFrame f).stateOut = s.stateOut := by
  unfold State.dispatchFrame; split <;> simp
@[simp] theorem State.dispatchFrame_enOut (f : Frame) (s : State) : (s.dispatchFrame f).enOut = s.enOut := by
  unfold State.dispatchFrame; split <;> simp
@[simp] theorem State.dispatchFrame_asked (f : Frame) (s : State) : (s.dispatchFrame f).asked = s.asked := by
  unfold State.dispatchFrame; split <;> simp
@[simp] theorem State.dispatchFrame_polling (f : Frame) (s : State) : (s.dispatchFrame f).polling = s.polling := by
  unfold State.dispatchFrame; split <;> simp
@[simp] theorem State.dispatchFrame_password (f : Frame) (s : State) : (s.dispatchFrame f).password = s.password := by
  unfold State.dispatchFrame; split <;> simp
@[simp] theorem State.dispatchFrame_agenda (f : Frame) (s : State) : (s.dispatchFrame f).agenda = s.agenda := by
  unfold State.dispatchFrame; split <;> simp
@[simp] theorem State.dispatchFrame_answers (f : Frame) (s : State) : (s.dispatchFrame f).answers = s.answers := by
  unfold State.dispatchFrame; split <;> simp
@[simp] theorem State.dispatchFrame_draws (f : Frame) (s : State) : (s.dispatchFrame f).draws = s.draws := by
  unfold State.dispatchFrame; split <;> simp

-- ### deliver

@[simp] theorem State.deliver_cfg (f : Frame) (s : State) : (s.deliver f).cfg = s.cfg := State.dispatchFrame_cfg f _
@[simp] theorem State.deliver_rxbuf (f : Frame) (s : State) : (s.deliver f).rxbuf = s.rxbuf := State.dispatchFrame_rxbuf f _
@[simp] theorem State.deliver_conn (f : Frame) (s : State) : (s.deliver f).conn = s.conn := State.dispatchFrame_conn f _
@[simp] theorem State.deliver_en (f : Frame) (s : State) : (s.deliver f).en = s.en := State.dispatchFrame_en f _
@[simp] theorem State.deliver_portOpen (f : Frame) (s : State) : (s.deliver f).portOpen = s.portOpen := State.dispatchFrame_portOpen f _
@[simp] theorem State.deliver_readerActive (f : Frame) (s : State) : (s.deliver f).readerActive = s.readerActive := State.dispatchFrame_readerActive f _
@[simp] theorem State.deliver_busy (f : Frame) (s : State) : (s.deliver f).busy = s.busy := State.dispatchFrame_busy f _
@[simp] theorem State.deliver_runBegun (f : Frame) (s : State) : (s.deliver f).runBegun = s.runBegun := State.dispatchFrame_runBegun f _
@[simp] theorem State.deliver_tx (f : Frame) (s : State) : (s.deliver f).tx = s.tx := State.dispatchFrame_tx f _
@[simp] theorem State.deliver_byteOut (f : Frame) (s : State) : (s.deliver f).byteOut = s.byteOut := State.dispatchFrame_byteOut f _
@[simp] theorem State.deliver_stateOut (f : Frame) (s : State) : (s.deliver f).stateOut = s.stateOut := State.dispatchFrame_stateOut f _
@[simp] theorem State.deliver_enOut (f : Frame) (s : State) : (s.deliver f).enOut = s.enOut := State.dispatchFrame_enOut f _
@[simp] theorem State.deliver_asked (f : Frame) (s : State) : (s.deliver f).asked = s.asked := State.dispatchFrame_asked f _
@[simp] theorem State.deliver_polling (f : Frame) (s : State) : (s.deliver f).polling = s.polling := State.dispatchFrame_polling f _
@[simp] theorem State.deliver_password (f : Frame) (s : State) : (s.deliver f).password = s.password := State.dispatchFrame_password f _
@[simp] theorem State.deliver_agenda (f : Frame) (s : State) : (s.deliver f).agenda = s.agenda := State.dispatchFrame_agenda f _
@[simp] theorem State.deliver_answers (f : Frame) (s : State) : (s.deliver f).answers = s.answers := State.dispatchFrame_answers f _
@[simp] theorem State.deliver_draws (f : Frame) (s : State) : (s.deliver f).draws = s.draws := State.dispatchFrame_draws f _

-- ### responseTimeout

@[simp] theorem State.responseTimeout_cfg (s : State) : s.responseTimeout.cfg = s.cfg := by
  unfold State.responseTimeout; split <;> rfl
@[simp] theorem State.responseTimeout_rxbuf (s : State) : s.responseTimeout.rxbuf = s.rxbuf := by
  unfold State.responseTimeout; split <;> rfl
@[simp] theorem State.responseTimeout_conn (s : State) : s.responseTimeout.conn = s.conn := by
  unfold State.responseTimeout; split <;> rfl
@[simp] theorem State.responseTimeout_en (s : State) : s.responseTimeout.en = s.en := by
  unfold State.responseTimeout; split <;> rfl
@[simp] theorem State.responseTimeout_portOpen (s : State) : s.responseTimeout.portOpen = s.portOpen := by
  unfold State.responseTimeout; split <;> rfl
@[simp] theorem State.responseTimeout_readerActive (s : State) : s.responseTimeout.readerActive = s.readerActive := by
  unfold State.responseTimeout; split <;> rfl
@[simp] theorem State.responseTimeout_busy (s : State) : s.responseTimeout.busy = s.busy := by
  unfold State.responseTimeout; split <;> rfl
@[simp] theorem State.responseTimeout_runBegun (s : State) : s.responseTimeout.runBegun = s.runBegun := by
  unfold State.responseTimeout; split <;> rfl
@[simp] theorem State.responseTimeout_tx (s : State) : s.responseTimeout.tx = s.tx := by
  unfold State.responseTimeout; split <;> rfl
@[simp] theorem State.responseTimeout_byteOut (s : State) : s.responseTimeout.byteOut = s.byteOut := by
  unfold State.responseTimeout; split <;> rfl
@[simp] theorem State.responseTimeout_frameOut (s : State) : s.responseTimeout.frameOut = s.frameOut := by
  unfold State.responseTimeout; split <;> rfl
@[simp] theorem State.responseTimeout_stateOut (s : State) : s.responseTimeout.stateOut = s.stateOut := by
  unfold State.responseTimeout; split <;> rfl
@[simp] theorem State.responseTimeout_enOut (s : State) : s.responseTimeout.enOut = s.enOut := by
  unfold State.responseTimeout; split <;> rfl
@[simp] theorem State.responseTimeout_asked (s : State) : s.responseTimeout.asked = s.asked := by
  unfold State.responseTimeout; split <;> rfl
@[simp] theorem State.responseTimeout_polling (s : State) : s.responseTimeout.polling = s.polling := by
  unfold State.responseTimeout; split <;> rfl
@[simp] theorem State.responseTimeout_password (s : State) : s.responseTimeout.password = s.password := by
  unfold State.responseTimeout; split <;> rfl
@[simp] theorem State.responseTimeout_pollOut (s : State) : s.responseTimeout.pollOut = s.pollOut := by
  unfold State.responseTimeout; split <;> rfl
@[simp] theorem State.responseTimeout_verifies (s : State) : s.responseTimeout.verifies = s.verifies := by
  unfold State.responseTimeout; split <;> rfl
@[simp] theorem State.responseTimeout_agenda (s : State) : s.responseTimeout.agenda = s.agenda := by
  unfold State.responseTimeout; split <;> rfl
@[simp] theorem State.responseTimeout_answers (s : State) : s.responseTimeout.answers = s.answers := by
  unfold State.responseTimeout; split <;> rfl
@[simp] theorem State.responseTimeout_draws (s : State) : s.responseTimeout.draws = s.draws := by
  unfold State.responseTimeout; split <;> rfl

-- ### verifyTimeout

@[simp] theorem State.verifyTimeout_cfg (index : Nat) (s : State) : (s.verifyTimeout index).cfg = s.cfg := by
  unfold State.verifyTimeout; split <;> rfl
@[simp] theorem State.verifyTimeout_rxbuf (index : Nat) (s : State) : (s.verifyTimeout index).rxbuf = s.rxbuf := by
  unfold State.verifyTimeout; split <;> rfl
@[simp] theorem State.verifyTimeout_conn (index : Nat) (s : State) : (s.verifyTimeout index).conn = s.conn := by
  unfold State.verifyTimeout; split <;> rfl
@[simp] theorem State.verifyTimeout_en (index : Nat) (s : State) : (s.verifyTimeout index).en = s.en := by
  unfold State.verifyTimeout; split <;> rfl
@[simp] theorem State.verifyTimeout_portOpen (index : Nat) (s : State) : (s.verifyTimeout index).portOpen = s.portOpen := by
  unfold State.verifyTimeout; split <;> rfl
@[simp] theorem State.verifyTimeout_readerActive (index : Nat) (s : State) : (s.verifyTimeout index).readerActive = s.readerActive := by
  unfold State.verifyTimeout; split <;> rfl
@[simp] theorem State.verifyTimeout_busy (index : Nat) (s : State) : (s.verifyTimeout index).busy = s.busy := by
  unfold State.verifyTimeout; split <;> rfl
@[simp] theorem State.verifyTimeout_runBegun (index : Nat) (s : State) : (s.verifyTimeout index).runBegun = s.runBegun := by
  unfold State.verifyTimeout; split <;> rfl
@[simp] theorem State.verifyTimeout_tx (index : Nat) (s : State) : (s.verifyTimeout index).tx = s.tx := by
  unfold State.verifyTimeout; split <;> rfl
@[simp] theorem State.verifyTimeout_byteOut (index : Nat) (s : State) : (s.verifyTimeout index).byteOut = s.byteOut := by
  unfold State.verifyTimeout; split <;> rfl
@[simp] theorem State.verifyTimeout_frameOut (index : Nat) (s : State) : (s.verifyTimeout index).frameOut = s.frameOut := by
  unfold State.verifyTimeout; split <;> rfl
@[simp] theorem State.verifyTimeout_stateOut (index : Nat) (s : State) : (s.verifyTimeout index).stateOut = s.stateOut := by
  unfold State.verifyTimeout; split <;> rfl
@[simp] theorem State.verifyTimeout_enOut (index : Nat) (s : State) : (s.verifyTimeout index).enOut = s.enOut := by
  unfold State.verifyTimeout; split <;> rfl
@[simp] theorem State.verifyTimeout_asked (index : Nat) (s : State) : (s.verifyTimeout index).asked = s.asked := by
  unfold State.verifyTimeout; split <;> rfl
@[simp] theorem State.verifyTimeout_pending (index : Nat) (s : State) : (s.verifyTimeout index).pending = s.pending := by
  unfold State.verifyTimeout; split <;> rfl
@[simp] theorem State.verifyTimeout_polling (index : Nat) (s : State) : (s.verifyTimeout index).polling = s.polling := by
  unfold State.verifyTimeout; split <;> rfl
@[simp] theorem State.verifyTimeout_password (index : Nat) (s : State) : (s.verifyTimeout index).password = s.password := by
  unfold State.verifyTimeout; split <;> rfl
@[simp] theorem State.verifyTimeout_pollOut (index : Nat) (s : State) : (s.verifyTimeout index).pollOut = s.pollOut := by
  unfold State.verifyTimeout; split <;> rfl
@[simp] theorem State.verifyTimeout_agenda (index : Nat) (s : State) : (s.verifyTimeout index).agenda = s.agenda := by
  unfold State.verifyTimeout; split <;> rfl
@[simp] theorem State.verifyTimeout_answers (index : Nat) (s : State) : (s.verifyTimeout index).answers = s.answers := by
  unfold State.verifyTimeout; split <;> rfl
@[simp] theorem State.verifyTimeout_draws (index : Nat) (s : State) : (s.verifyTimeout index).draws = s.draws := by
  unfold State.verifyTimeout; split <;> rfl

-- ### the fields written unconditionally

@[simp] theorem State.beginRun_runBegun (s : State) : s.beginRun.runBegun = true := rfl
@[simp] theorem State.enterRun_reset (s : State) : s.enterRun .reset = s := rfl
theorem State.enterRun_other {i : Instr} (h : i ≠ .reset) (s : State) : s.enterRun i = s.beginRun := if_neg h
@[simp] theorem State.giveResult_results (r : Result) (s : State) : (s.giveResult r).results = s.results ++ [r] := rfl
@[simp] theorem State.publish_conn (c : ConnectionState) (s : State) : (s.publish c).conn = c := rfl
@[simp] theorem State.publish_stateOut (c : ConnectionState) (s : State) : (s.publish c).stateOut = s.stateOut ++ [c] := rfl
@[simp] theorem State.txEmit_tx (bs : List Byte) (s : State) : (s.txEmit bs).tx = s.tx ++ bs := rfl
@[simp] theorem State.placeFrame_rxbuf (bs : List Byte) (s : State) : (s.placeFrame bs).rxbuf = bs ++ s.rxbuf := rfl
@[simp] theorem State.emitPoll_pollOut (d : TagPollData) (s : State) : (s.emitPoll d).pollOut = s.pollOut ++ [d] := rfl
@[simp] theorem State.hostFail_results (op : HostOp) (why : HostFailure) (s : State) :
    (s.hostFail op why).results = s.results ++ [.host op (.failure why)] := rfl
@[simp] theorem State.driveEn_en (l : Line) (s : State) : (s.driveEn l).en = l := by
  unfold State.driveEn; split
  · assumption
  · rfl
@[simp] theorem State.beginConnect_en (port : Text) (baud : Nat) (s : State) : (s.beginConnect port baud).en = .deasserted :=
  State.driveEn_en _ s
@[simp] theorem State.beginConnect_busy (port : Text) (baud : Nat) (s : State) :
    (s.beginConnect port baud).busy = some .k2 := rfl
@[simp] theorem State.enterError_en (p : HwerrEnPolicy) (msg : Text) (s : State) :
    (s.enterError p msg).en = errorLine p s := State.driveEn_en _ s
@[simp] theorem State.enterError_readerActive (p : HwerrEnPolicy) (msg : Text) (s : State) :
    (s.enterError p msg).readerActive = false := rfl
@[simp] theorem State.enterError_status (p : HwerrEnPolicy) (msg : Text) (s : State) :
    (s.enterError p msg).conn.status = .error := rfl
@[simp] theorem State.connectFailed_busy (msg : Text) (s : State) : (s.connectFailed msg).busy = none := rfl
@[simp] theorem State.cancelHost_pending (s : State) : s.cancelHost.pending = none := by
  unfold State.cancelHost; split
  · rfl
  · assumption
@[simp] theorem State.cancelHost_polling (s : State) : s.cancelHost.polling = false := by
  unfold State.cancelHost; split <;> rfl
@[simp] theorem State.deliver_frameOut (f : Frame) (s : State) : (s.deliver f).frameOut = s.frameOut ++ [f] :=
  State.dispatchFrame_frameOut f _

end Sys2Proof.Machine
end

