-- ==== Sys2Proof/Laws/Ops.lean ====
section
/-! SUPPORT. What the environment's answer, the outbound write, RxAppend and a host command can do, once each. -/

namespace Sys2Proof.Machine

@[simp] theorem State.ask_cfg (q : EnvQuestion) (s : State) : (s.ask q).2.cfg = s.cfg := by
  unfold State.ask; split <;> rfl
@[simp] theorem State.ask_rxbuf (q : EnvQuestion) (s : State) : (s.ask q).2.rxbuf = s.rxbuf := by
  unfold State.ask; split <;> rfl
@[simp] theorem State.ask_conn (q : EnvQuestion) (s : State) : (s.ask q).2.conn = s.conn := by
  unfold State.ask; split <;> rfl
@[simp] theorem State.ask_en (q : EnvQuestion) (s : State) : (s.ask q).2.en = s.en := by
  unfold State.ask; split <;> rfl
@[simp] theorem State.ask_portOpen (q : EnvQuestion) (s : State) : (s.ask q).2.portOpen = s.portOpen := by
  unfold State.ask; split <;> rfl
@[simp] theorem State.ask_readerActive (q : EnvQuestion) (s : State) : (s.ask q).2.readerActive = s.readerActive := by
  unfold State.ask; split <;> rfl
@[simp] theorem State.ask_busy (q : EnvQuestion) (s : State) : (s.ask q).2.busy = s.busy := by
  unfold State.ask; split <;> rfl
@[simp] theorem State.ask_runBegun (q : EnvQuestion) (s : State) : (s.ask q).2.runBegun = s.runBegun := by
  unfold State.ask; split <;> rfl
@[simp] theorem State.ask_tx (q : EnvQuestion) (s : State) : (s.ask q).2.tx = s.tx := by
  unfold State.ask; split <;> rfl
@[simp] theorem State.ask_byteOut (q : EnvQuestion) (s : State) : (s.ask q).2.byteOut = s.byteOut := by
  unfold State.ask; split <;> rfl
@[simp] theorem State.ask_frameOut (q : EnvQuestion) (s : State) : (s.ask q).2.frameOut = s.frameOut := by
  unfold State.ask; split <;> rfl
@[simp] theorem State.ask_stateOut (q : EnvQuestion) (s : State) : (s.ask q).2.stateOut = s.stateOut := by
  unfold State.ask; split <;> rfl
@[simp] theorem State.ask_enOut (q : EnvQuestion) (s : State) : (s.ask q).2.enOut = s.enOut := by
  unfold State.ask; split <;> rfl
@[simp] theorem State.ask_results (q : EnvQuestion) (s : State) : (s.ask q).2.results = s.results := by
  unfold State.ask; split <;> rfl
@[simp] theorem State.ask_pending (q : EnvQuestion) (s : State) : (s.ask q).2.pending = s.pending := by
  unfold State.ask; split <;> rfl
@[simp] theorem State.ask_polling (q : EnvQuestion) (s : State) : (s.ask q).2.polling = s.polling := by
  unfold State.ask; split <;> rfl
@[simp] theorem State.ask_password (q : EnvQuestion) (s : State) : (s.ask q).2.password = s.password := by
  unfold State.ask; split <;> rfl
@[simp] theorem State.ask_pollOut (q : EnvQuestion) (s : State) : (s.ask q).2.pollOut = s.pollOut := by
  unfold State.ask; split <;> rfl
@[simp] theorem State.ask_verifies (q : EnvQuestion) (s : State) : (s.ask q).2.verifies = s.verifies := by
  unfold State.ask; split <;> rfl
@[simp] theorem State.ask_agenda (q : EnvQuestion) (s : State) : (s.ask q).2.agenda = s.agenda := by
  unfold State.ask; split <;> rfl
@[simp] theorem State.ask_asked (q : EnvQuestion) (s : State) : (s.ask q).2.asked = s.asked ++ [q] := by
  unfold State.ask; split <;> rfl

/-- The answer scripted in the state is the one given. -/
theorem State.ask_scripted {q : EnvQuestion} {s : State} {a : EnvAnswer} {rest : List EnvAnswer} (h : s.answers = a :: rest) :
    s.ask q = (a, { s with answers := rest, asked := s.asked ++ [q] }) := by
  unfold State.ask; rw [h]

/-- U17: with no answer scripted, the answer is a free value. -/
theorem State.ask_free {q : EnvQuestion} {s : State} (h : s.answers = []) :
    s.ask q = (Config.freeAnswer s.draws, { s with draws := s.draws + 1, asked := s.asked ++ [q] }) := by
  unfold State.ask; rw [h]

/-- R36: RxAppend appends, or is refused because the chunk does not fit. -/
theorem State.rxAppend_ok {bs : List Byte} {s t : State} (h : s.rxAppend bs = .ok t) :
    t = { s with rxbuf := s.rxbuf ++ bs } := by
  unfold State.rxAppend at h
  split at h
  · cases h; rfl
  · split at h
    · cases h
    · cases h; rfl

theorem State.rxAppend_error {bs : List Byte} {s : State} {r : Refusal} (h : s.rxAppend bs = .error r) :
    r = .rxbufOverflow ∧ ∃ cap, s.cfg.rxbufCap = some cap ∧ cap < s.rxbuf.length + bs.length := by
  unfold State.rxAppend at h
  split at h
  · cases h
  · rename_i cap hc
    split at h
    · cases h; exact ⟨rfl, cap, hc, by omega⟩
    · cases h

/-- R17, R138: the history of EN still ends in its level when EN is driven. -/
theorem State.driveEn_latest {l : Line} {s : State} (h : s.en = s.enOut.getLastD .deasserted) :
    (s.driveEn l).enOut.getLastD .deasserted = l := by
  unfold State.driveEn
  split
  · rename_i hl; rw [← h, hl]
  · simp

/-- R134, R141: all that the outbound write can answer: outside Connected nothing is sent; in Connected, with no operation in
progress, a prefix of the bytes is sent, all of them on success. -/
theorem State.transportWrite_ok {bs : List Byte} {s t : State} {done : Bool} (h : s.transportWrite bs = .ok (done, t)) :
    (s.conn.status ≠ .connected ∧ done = false ∧ t = s)
    ∨ (s.conn.status = .connected ∧ s.busy = none
      ∧ ∃ sent, t = (s.ask (.portWrite bs)).2.txEmit (bs.take sent) ∧ (done = true → bs.take sent = bs)) := by
  unfold State.transportWrite at h
  split at h
  · cases h; exact .inl ⟨‹_›, rfl, rfl⟩
  · rename_i hc
    split at h
    · cases h
    · rename_i hb
      have hbusy : s.busy = none := by simpa using hb
      have hcon : s.conn.status = .connected := by simpa using hc
      split at h
      · rename_i s' hq
        cases h
        refine .inr ⟨hcon, hbusy, bs.length, ?_, fun _ => List.take_length⟩
        rw [List.take_length, hq]
      · rename_i sent s' hq
        cases h
        refine .inr ⟨hcon, hbusy, sent, ?_, fun e => by cases e⟩
        rw [hq]

theorem State.transportWrite_error {bs : List Byte} {s : State} {r : Refusal} (h : s.transportWrite bs = .error r) :
    r = .transportBusy ∧ s.conn.status = .connected ∧ s.busy ≠ none := by
  unfold State.transportWrite at h
  split at h
  · cases h
  · rename_i hc
    split at h
    · rename_i hb
      cases h
      exact ⟨rfl, by simpa using hc, by intro e; simp [e] at hb⟩
    · split at h <;> cases h

/-- R141: in Connected, with an operation in progress, the outbound write is refused. -/
theorem State.transportWrite_busy {s : State} (bs : List Byte) (hc : s.conn.status = .connected) (hb : s.busy ≠ none) :
    s.transportWrite bs = .error .transportBusy := by
  unfold State.transportWrite
  rw [if_neg (not_not.2 hc), if_pos (Option.isSome_iff_ne_none.2 hb)]

/-- R141 (log 29): so is a host command that gets as far as the write. -/
theorem hostCommand_busy {op : HostOp} {c : Byte} {bs : List Byte} {s : State} (hp : s.pending = none)
    (hc : s.conn.status = .connected) (hb : s.busy ≠ none) : hostCommand op c (.ok bs) s = .refused .transportBusy := by
  simp only [hostCommand, hp, State.transportWrite_busy bs hc hb]; rfl

/-- R141 (log 29): so is a change of polling. -/
theorem hostSetPolling_busy {op : HostOp} {wanted : Bool} {bs : List Byte} {s : State} (hw : s.polling ≠ wanted)
    (hc : s.conn.status = .connected) (hb : s.busy ≠ none) :
    hostSetPolling op wanted (.ok bs) s = .refused .transportBusy := by
  unfold hostSetPolling
  rw [if_neg (not_not.2 hc), if_neg hw]
  simp only [State.transportWrite_busy bs hc hb]

end Sys2Proof.Machine
end

