-- ==== Sys2Proof/Laws/Receive.lean ====
section
/-! SUPPORT. The receive path (R106): what one turn of the loop can do, and what the loop keeps and reaches. -/

namespace Sys2Proof.Machine

/-- R106: all that one turn of the loop can do. -/
theorem State.receiveOne_some {s t : State} (h : s.receiveOne = some t) :
    ∃ candidate rest, extractFrame s.rxbuf = some (candidate, rest)
      ∧ ((∃ f, parseFrame candidate = some f ∧ t = State.deliver f { s with rxbuf := rest })
        ∨ (parseFrame candidate = none ∧ t = { s with rxbuf := resync s.cfg.resyncPolicy s.rxbuf rest })) := by
  unfold State.receiveOne at h
  split at h
  · cases h
  · rename_i candidate rest hx
    refine ⟨candidate, rest, hx, ?_⟩
    split at h
    · rename_i f hf
      cases h; exact .inl ⟨f, hf, rfl⟩
    · rename_i hf
      cases h; exact .inr ⟨hf, rfl⟩

theorem State.receiveOne_none {s : State} : s.receiveOne = none ↔ extractFrame s.rxbuf = none := by
  unfold State.receiveOne
  split
  · simp_all
  · rename_i hx
    split <;> simp [hx]

/-- R106: every turn removes at least one byte from the front of RXBUF, and leaves its end. -/
theorem State.receiveOne_rxbuf {s t : State} (h : s.receiveOne = some t) :
    t.rxbuf.length < s.rxbuf.length ∧ t.rxbuf <:+ s.rxbuf := by
  obtain ⟨candidate, rest, hx, ⟨f, -, rfl⟩ | ⟨-, rfl⟩⟩ := State.receiveOne_some h
  · obtain ⟨hl, hs⟩ := extractFrame_rest_shorter hx
    simp only [State.deliver_rxbuf]
    exact ⟨by omega, hs⟩
  · exact resync_shorter _ hx

/-- A property that every turn of the loop keeps is kept by the loop. -/
theorem State.drain_induction {P : State → Prop} (hP : ∀ s t : State, s.receiveOne = some t → P s → P t) :
    ∀ (n : Nat) (s : State), P s → P (State.drain n s) := by
  intro n
  induction n with
  | zero => intro s h; exact h
  | succ n ih =>
    intro s h
    unfold State.drain
    split
    · exact h
    · rename_i s' hs
      exact ih s' (hP s s' hs h)

/-- R106: with RXBUF's length as fuel the loop ends with no complete candidate left. -/
theorem State.drain_drained : ∀ (n : Nat) (s : State), s.rxbuf.length ≤ n → extractFrame (State.drain n s).rxbuf = none := by
  intro n
  induction n with
  | zero =>
    intro s h
    have : s.rxbuf = [] := List.eq_nil_of_length_eq_zero (by omega)
    simp only [State.drain, this]
    exact extractFrame_no_header (by simp)
  | succ n ih =>
    intro s h
    unfold State.drain
    split
    · rename_i hs; exact State.receiveOne_none.1 hs
    · rename_i s' hs
      have := (State.receiveOne_rxbuf hs).1
      exact ih s' (by omega)

/-- R106: the loop ends at once where no complete candidate is left. -/
theorem State.drain_of_drained (n : Nat) {s : State} (h : extractFrame s.rxbuf = none) : State.drain n s = s := by
  cases n with
  | zero => rfl
  | succ n => unfold State.drain; rw [State.receiveOne_none.2 h]

/-- R106: one turn on garbage, a whole frame and what follows it. -/
theorem State.receiveOne_wire {s : State} {g rest : List Byte} {w : Wire} (hg : header ∉ g)
    (hl : w.parameters.length ≤ maxParams) (hr : s.rxbuf = g ++ (wireBytes w ++ rest)) :
    s.receiveOne = some (State.deliver (frameOfWire w) { s with rxbuf := rest }) := by
  unfold State.receiveOne
  rw [hr, extractFrame_wire hg hl]
  simp only [parseFrame_wireBytes hl]

end Sys2Proof.Machine
end

