-- ==== Sys2Proof/Laws/Exec.lean ====
section
/-! SUPPORT. All that an instruction can do when it answers a next state (`ExecNext`), said once for every row; later proofs cite
it and do not unfold the meanings. -/

namespace Sys2Proof.Machine

/-- The kinds of effect of an instruction that answers a next state. -/
inductive ExecNext (i : Instr) (s t : State) : Prop
  /-- only results are returned (and free values drawn) -/
  | quiet (rs : List Result) (n : Nat) (h : t = { s with results := s.results ++ rs, draws := s.draws + n })
  /-- a frame is taken by the receive path -/
  | delivered (f : Frame) (h : t = s.deliver f)
  /-- a chunk is pushed into RXBUF -/
  | pushed (chunk : List Byte) (chunks : List (List Byte)) (s' : State) (h : s' = { s with byteOut := s.byteOut ++ chunks })
      (ht : s'.rxPush chunk = .ok t)
  /-- R131 step K1 -/
  | connecting (port : Text) (baud : Nat) (hi : i = .connect port baud) (hb : s.busy = none)
      (hc : s.conn.status = .disconnected ∨ s.conn.status = .error) (h : t = s.beginConnect port baud)
  /-- R133 step D1 -/
  | disconnecting (hi : i = .disconnect) (hb : s.busy = none) (hc : s.conn.status = .connected)
      (h : t = State.publish { s.conn with moduleEnabled := false }
        { s.cancelHost.driveEn .deasserted with busy := some .d2 })
  /-- a write reaches the environment, and the host may take its slot or change polling -/
  | sent (bs : List Byte) (n : Nat) (rs : List Result) (p : Option Waiter) (b : Bool) (hb : s.busy = none)
      (hc : s.conn.status = .connected)
      (h : t = { (s.ask (.portWrite bs)).2.txEmit (bs.take n) with results := s.results ++ rs, pending := p, polling := b })
  /-- R136 -/
  | hwError (msg : Text) (hi : i = .envHwError msg) (hb : s.busy = none) (hc : s.conn.status = .connected)
      (h : t = (s.enterError s.cfg.hwerrEnPolicy msg).cancelHost)
  /-- R220 -/
  | poweredOn (hi : i = .reset) (hp : s.atPowerOn = true) (h : t = s.powerOn)
  /-- R167 -/
  | waiting (v : Verify) (h : t = { s with verifies := s.verifies ++ [v] })

theorem ExecNext.result (i : Instr) (r : Result) (s : State) : ExecNext i s (s.giveResult r) := .quiet [r] 0 rfl

theorem ExecNext.built (i : Instr) (b : Except ArgumentName (List Byte)) (s : State) : ExecNext i s (s.giveBuilt b) := by
  cases b with
  | ok bs => exact .quiet [.bytes bs] 0 rfl
  | error which => exact .quiet [_] 1 rfl

theorem takeFrame_next {i : Instr} {w : Wire} {s t : State} (h : takeFrame w s = .next t) : ExecNext i s t := by
  cases h; exact .delivered _ rfl

/-- A write that reached the environment, with results, slot and polling written out. -/
theorem sent_eq (q : EnvQuestion) (bs : List Byte) (s : State) :
    (s.ask q).2.txEmit bs
      = { (s.ask q).2.txEmit bs with results := s.results ++ [], pending := s.pending, polling := s.polling } := by
  unfold State.ask; split <;> simp [State.txEmit]

theorem sent_giveResult_eq (q : EnvQuestion) (bs : List Byte) (r : Result) (s : State) :
    ((s.ask q).2.txEmit bs).giveResult r
      = { (s.ask q).2.txEmit bs with results := s.results ++ [r], pending := s.pending, polling := s.polling } := by
  unfold State.ask; split <;> rfl

theorem sent_pending_eq (q : EnvQuestion) (bs : List Byte) (p : Option Waiter) (s : State) :
    { (s.ask q).2.txEmit bs with pending := p }
      = { (s.ask q).2.txEmit bs with results := s.results ++ [], pending := p, polling := s.polling } := by
  unfold State.ask; split <;> simp [State.txEmit]

theorem sent_polling_eq (q : EnvQuestion) (bs : List Byte) (r : Result) (b : Bool) (s : State) :
    { ((s.ask q).2.txEmit bs).giveResult r with polling := b }
      = { (s.ask q).2.txEmit bs with results := s.results ++ [r], pending := s.pending, polling := b } := by
  unfold State.ask; split <;> rfl

/-- R160, R164 to R168: all that a command of the host can do. -/
theorem hostCommand_next {i : Instr} {op : HostOp} {c : Byte} {built : Except ArgumentName (List Byte)} {s t : State}
    (h : hostCommand op c built s = .next t) : ExecNext i s t := by
  unfold hostCommand at h
  split at h
  · cases h; exact .quiet [_] 1 rfl
  · rename_i bs
    split at h
    · cases h; exact .quiet [_] 0 rfl
    · split at h
      · cases h
      · rename_i s' hw
        cases h
        rcases State.transportWrite_ok hw with ⟨-, -, rfl⟩ | ⟨hc, hb, n, rfl, -⟩
        · exact .quiet [_] 0 rfl
        · exact .sent bs n [_] s.pending s.polling hb hc (sent_giveResult_eq _ _ _ s)
      · rename_i s' hw
        cases h
        rcases State.transportWrite_ok hw with ⟨-, hf, -⟩ | ⟨hc, hb, n, rfl, -⟩
        · cases hf
        · exact .sent bs n [] _ s.polling hb hc (sent_pending_eq _ _ _ s)

/-- R163: all that starting or stopping polling can do. -/
theorem hostSetPolling_next {i : Instr} {op : HostOp} {wanted : Bool} {built : Except ArgumentName (List Byte)} {s t : State}
    (h : hostSetPolling op wanted built s = .next t) : ExecNext i s t := by
  unfold hostSetPolling at h
  split at h
  · cases h; exact .quiet [_] 0 rfl
  · split at h
    · cases h; exact .result _ _ _
    · split at h
      · cases h; exact .quiet [_] 1 rfl
      · rename_i bs
        split at h
        · cases h
        · rename_i s' hw
          cases h
          rcases State.transportWrite_ok hw with ⟨-, -, rfl⟩ | ⟨hc, hb, n, rfl, -⟩
          · exact .quiet [_] 0 rfl
          · exact .sent bs n [_] s.pending s.polling hb hc (sent_giveResult_eq _ _ _ s)
        · rename_i s' hw
          cases h
          rcases State.transportWrite_ok hw with ⟨-, hf, -⟩ | ⟨hc, hb, n, rfl, -⟩
          · cases hf
          · exact .sent bs n [_] s.pending _ hb hc (sent_polling_eq _ _ _ _ s)

/-- All that an instruction can do when it answers a next state. -/
theorem exec_next {i : Instr} {s t : State} (h : exec i s = .next t) : ExecNext i s t := by
  cases i with
  | frameCommand => exact takeFrame_next h
  | frameResponse => exact takeFrame_next h
  | frameNotice => exact takeFrame_next h
  | cmdSinglePoll => exact takeFrame_next h
  | cmdStartPoll => exact takeFrame_next h
  | cmdStopPoll => exact takeFrame_next h
  | cmdWriteEpc => exact takeFrame_next h
  | cmdLockTag => exact takeFrame_next h
  | cmdSetRfPower => exact takeFrame_next h
  | cmdGetRfPower => exact takeFrame_next h
  | noticeTagPoll => exact takeFrame_next h
  | responseSuccess => exact takeFrame_next h
  | checksum =>
    simp only [exec, execChecksum] at h
    split at h
    · cases h; exact .result _ _ _
    · cases h; exact .quiet [_] 1 rfl
  | encodeFrame => cases h; exact .built _ _ _
  | buildCommand => cases h; exact .built _ _ _
  | buildSinglePoll => cases h; exact .built _ _ _
  | buildStartPoll => cases h; exact .built _ _ _
  | buildStopPoll => cases h; exact .built _ _ _
  | buildWriteEpc => cases h; exact .built _ _ _
  | buildLockTag => cases h; exact .built _ _ _
  | buildSetRfPower => cases h; exact .built _ _ _
  | buildGetRfPower => cases h; exact .built _ _ _
  | parseFrame =>
    simp only [exec, execParseFrame] at h
    split at h <;> cases h <;> exact .result _ _ _
  | frameChecksumValid => cases h; exact .result _ _ _
  | frameIsSuccess => cases h; exact .result _ _ _
  | frameResponseCode => cases h; exact .result _ _ _
  | findFrameEnd =>
    simp only [exec, execFindFrameEnd] at h
    split at h <;> cases h <;> exact .result _ _ _
  | extractFrame =>
    simp only [exec, execExtractFrame] at h
    split at h <;> cases h <;> exact .result _ _ _
  | rxPush chunk =>
    simp only [exec, execRxPush] at h
    split at h
    · rename_i hp
      cases h; exact .pushed chunk [] s (by simp) hp
    · cases h
  | parseTagPollData =>
    simp only [exec, execParseTagPollData] at h
    split at h <;> cases h <;> exact .result _ _ _
  | epcHex => cases h; exact .result _ _ _
  | isReaderTag => cases h; exact .result _ _ _
  | responseMessage => cases h; exact .result _ _ _
  | connect port baud =>
    simp only [exec, execConnect] at h
    split at h
    · cases h
    · rename_i hb
      have hb : s.busy = none := by simpa using hb
      split at h
      · rename_i hc
        cases h; exact .connecting port baud rfl hb (.inl hc) rfl
      · rename_i hc
        cases h; exact .connecting port baud rfl hb (.inr hc) rfl
      · cases h
      · cases h
  | disconnect =>
    simp only [exec, execDisconnect] at h
    split at h
    · cases h
    · rename_i hb
      have hb : s.busy = none := by simpa using hb
      split at h
      · rename_i hc
        cases h; exact .disconnecting rfl hb hc rfl
      · cases h
      · cases h
      · cases h
  | write bytes =>
    simp only [exec, execWrite] at h
    split at h
    · cases h
    · rename_i hw
      cases h
      rcases State.transportWrite_ok hw with ⟨-, -, rfl⟩ | ⟨hc, hb, n, rfl, -⟩
      · exact .result _ _ _
      · exact .sent bytes n [_] s.pending s.polling hb hc (sent_giveResult_eq _ _ _ s)
  | envRxChunk bytes =>
    simp only [exec, execEnvRxChunk] at h
    split at h
    · split at h
      · rename_i hp
        cases h; exact .pushed bytes [bytes] _ rfl hp
      · cases h
    · cases h; exact .quiet [] 0 (by simp)
  | envHwError msg =>
    simp only [exec, execEnvHwError] at h
    split at h
    · rename_i hc
      cases h; exact .hwError msg rfl hc.2 hc.1 rfl
    · cases h; exact .quiet [] 0 (by simp)
  | reset =>
    simp only [exec, execReset] at h
    split at h
    · rename_i hp
      cases h; exact .poweredOn rfl hp rfl
    · cases h
  | hostStartPolling => exact hostSetPolling_next (show hostSetPolling .startPolling true (buildStartPoll s.cfg 0) s = _ from h)
  | hostStopPolling => exact hostSetPolling_next (show hostSetPolling .stopPolling false (buildStopPoll s.cfg) s = _ from h)
  | hostSetRfPower => exact hostCommand_next h
  | hostGetRfPower =>
    exact hostCommand_next (show hostCommand .getRfPower s.cfg.cmdGetRfPower (buildGetRfPower s.cfg) s = _ from h)
  | hostWriteEpc => exact hostCommand_next h
  | hostLockTag => exact hostCommand_next h
  | hostVerifyEpc => cases h; exact .waiting _ rfl
  | hostSinglePoll =>
    exact hostCommand_next (show hostCommand .singlePoll s.cfg.cmdSinglePoll (buildSinglePoll s.cfg) s = _ from h)

/-- R106: what a chunk pushed into RXBUF leaves: the loop, from the state with the chunk appended. -/
theorem State.rxPush_ok {chunk : List Byte} {s t : State} (h : s.rxPush chunk = .ok t) :
    ∃ n, t = State.drain n { s with rxbuf := s.rxbuf ++ chunk } ∧ extractFrame t.rxbuf = none := by
  unfold State.rxPush at h
  split at h
  · cases h
  · rename_i s' hs
    cases h
    obtain rfl := State.rxAppend_ok hs
    exact ⟨_, rfl, State.drain_drained _ _ (Nat.le_refl _)⟩

end Sys2Proof.Machine
end

