-- ==== Sys2Proof/Laws/PerInstr.lean ====
section
/-! SUPPORT. The family Encoding: for every instruction, where it has bytes they are a frame of R50: header first, 0x7E last, 7
bytes more than its parameters, and the row is the one the bytes' fields give (R51, R52, R58). -/

namespace Sys2Proof.Laws.Encoding

open Sys2Proof.Machine

/-- R50, R51, R52, R58: the bytes of an instruction, if it has any, have the form of a frame. -/
def Statement (i : Instr) : Prop :=
  ∀ (c : Config) (bs : List Byte), encode c i = some bs →
    ∃ w, wireOf c i = some w ∧ bs.length = w.parameters.length + 7 ∧ bs.head? = some header ∧ bs.getLast? = some endByte

/-- The common case: the bytes are those of the row's frame. -/
theorem of_wire (i : Instr) : Statement i := by
  intro c bs h
  unfold encode at h
  cases hw : wireOf c i with
  | none => rw [hw] at h; cases h
  | some w =>
    rw [hw] at h
    simp only [Option.map_some, Option.some.injEq] at h
    subst h
    exact ⟨w, rfl, length_wireBytes w, by simp [wireBytes], by
      simp only [wireBytes, List.getLast?_append, List.getLast?_cons]; simp⟩

theorem frameCommand (command : Byte) (parameters : List Byte) (k : Byte) : Statement (.frameCommand command parameters k) := of_wire _
theorem frameResponse (command : Byte) (parameters : List Byte) (k : Byte) : Statement (.frameResponse command parameters k) := of_wire _
theorem frameNotice (command : Byte) (parameters : List Byte) (k : Byte) : Statement (.frameNotice command parameters k) := of_wire _
theorem cmdSinglePoll (k : Byte) : Statement (.cmdSinglePoll k) := of_wire _
theorem cmdStartPoll (parameters : List Byte) (k : Byte) : Statement (.cmdStartPoll parameters k) := of_wire _
theorem cmdStopPoll (k : Byte) : Statement (.cmdStopPoll k) := of_wire _
theorem cmdWriteEpc (password : List Byte) (bank : Byte) (address : BitVec 16) (words : BitVec 16) (epc : List Byte) (k : Byte) : Statement (.cmdWriteEpc password bank address words epc k) := of_wire _
theorem cmdLockTag (password : List Byte) (payload : List Byte) (k : Byte) : Statement (.cmdLockTag password payload k) := of_wire _
theorem cmdSetRfPower (parameters : List Byte) (k : Byte) : Statement (.cmdSetRfPower parameters k) := of_wire _
theorem cmdGetRfPower (k : Byte) : Statement (.cmdGetRfPower k) := of_wire _
theorem noticeTagPoll (rssi : Byte) (pc : BitVec 16) (epc : List Byte) (later : List Byte) (k : Byte) : Statement (.noticeTagPoll rssi pc epc later k) := of_wire _
theorem responseSuccess (command : Byte) (later : List Byte) (k : Byte) : Statement (.responseSuccess command later k) := of_wire _
theorem checksum (t : Byte) (c : Byte) (p : List Byte) : Statement (.checksum t c p) := of_wire _
theorem encodeFrame (t : FrameType) (c : Byte) (p : List Byte) : Statement (.encodeFrame t c p) := of_wire _
theorem buildCommand (command : Byte) (parameters : List Byte) : Statement (.buildCommand command parameters) := of_wire _
theorem buildSinglePoll : Statement .buildSinglePoll := of_wire _
theorem buildStartPoll (count : Int) : Statement (.buildStartPoll count) := of_wire _
theorem buildStopPoll : Statement .buildStopPoll := of_wire _
theorem buildWriteEpc (password : List Byte) (epc : List Byte) : Statement (.buildWriteEpc password epc) := of_wire _
theorem buildLockTag (password : List Byte) (payload : List Byte) : Statement (.buildLockTag password payload) := of_wire _
theorem buildSetRfPower (value : Int) : Statement (.buildSetRfPower value) := of_wire _
theorem buildGetRfPower : Statement .buildGetRfPower := of_wire _
theorem parseFrame (bytes : List Byte) : Statement (.parseFrame bytes) := of_wire _
theorem frameChecksumValid (frame : Frame) : Statement (.frameChecksumValid frame) := of_wire _
theorem frameIsSuccess (frame : Frame) : Statement (.frameIsSuccess frame) := of_wire _
theorem frameResponseCode (frame : Frame) : Statement (.frameResponseCode frame) := of_wire _
theorem findFrameEnd (buffer : List Byte) : Statement (.findFrameEnd buffer) := of_wire _
theorem extractFrame (buffer : List Byte) : Statement (.extractFrame buffer) := of_wire _
theorem rxPush (chunk : List Byte) : Statement (.rxPush chunk) := of_wire _
theorem parseTagPollData (frame : Frame) : Statement (.parseTagPollData frame) := of_wire _
theorem epcHex (tag : TagPollData) : Statement (.epcHex tag) := of_wire _
theorem isReaderTag (tag : TagPollData) : Statement (.isReaderTag tag) := of_wire _
theorem responseMessage (code : Byte) : Statement (.responseMessage code) := of_wire _
theorem connect (port : Text) (baud : Nat) : Statement (.connect port baud) := of_wire _
theorem disconnect : Statement .disconnect := of_wire _
theorem write (bytes : List Byte) : Statement (.write bytes) := of_wire _
theorem envRxChunk (bytes : List Byte) : Statement (.envRxChunk bytes) := of_wire _
theorem envHwError (msg : Text) : Statement (.envHwError msg) := of_wire _
theorem reset : Statement .reset := of_wire _
theorem hostStartPolling : Statement .hostStartPolling := of_wire _
theorem hostStopPolling : Statement .hostStopPolling := of_wire _
theorem hostSetRfPower (value : Int) : Statement (.hostSetRfPower value) := of_wire _
theorem hostGetRfPower : Statement .hostGetRfPower := of_wire _
theorem hostWriteEpc (epc : List Byte) : Statement (.hostWriteEpc epc) := of_wire _
theorem hostLockTag (password : List Byte) (payload : List Byte) : Statement (.hostLockTag password payload) := of_wire _
theorem hostVerifyEpc (expected : List Byte) (timeout : Nat) : Statement (.hostVerifyEpc expected timeout) := of_wire _
theorem hostSinglePoll : Statement .hostSinglePoll := of_wire _

end Sys2Proof.Laws.Encoding
end

