-- ==== Sys2Proof/Laws/Step.lean ====
section
/-! SUPPORT. A fetched frame: decoding and running it is one turn of the receive loop; and all that one step can do. -/

namespace Sys2Proof

open Sys2Proof.Machine

/-- The lengths that go with a command row. -/
theorem commandRow_spec {c : Config} {command : Byte} {len : Nat} {r : CommandRow} (h : commandRow c command len = some r) :
    match r with
    | .singlePoll => command = c.cmdSinglePoll ∧ len = 0
    | .startPoll => command = c.cmdStartPoll ∧ len = startPollLen c
    | .stopPoll => command = c.cmdStopPoll ∧ len = 0
    | .writeEpc => command = c.cmdWriteEpc ∧ len = 21
    | .lockTag => command = c.cmdLockTag ∧ len = 7
    | .setRfPower => command = c.cmdSetRfPower ∧ len = setRfPowerLen c
    | .getRfPower => command = c.cmdGetRfPower ∧ len = 0 := by
  unfold commandRow at h
  split at h
  · cases h; assumption
  split at h
  · cases h; assumption
  split at h
  · cases h; assumption
  split at h
  · cases h; assumption
  split at h
  · cases h; assumption
  split at h
  · cases h; assumption
  split at h
  · cases h; assumption
  · cases h

/-- R62, row "write EPC": 21 parameter bytes are the five fields. -/
theorem writeEpcLayout_fields {p : List Byte} (h : p.length = 21) :
    writeEpcLayout (p.take 4) (p.getD 4 0) (ofBe16 (p.getD 5 0) (p.getD 6 0)) (ofBe16 (p.getD 7 0) (p.getD 8 0)) (p.drop 9)
      = p := by
  match p, h with
  | a0 :: a1 :: a2 :: a3 :: a4 :: a5 :: a6 :: a7 :: a8 :: rest, _ => simp [writeEpcLayout, be16_ofBe16]

/-- R63: 15 or more parameter bytes are the four fields. -/
theorem tagPollLayout_fields {p : List Byte} (h : 15 ≤ p.length) :
    tagPollLayout (p.getD 0 0) (ofBe16 (p.getD 1 0) (p.getD 2 0)) ((p.drop 3).take 12) (p.drop 15) = p := by
  match p, h with
  | a0 :: a1 :: a2 :: rest, _ =>
    simp only [tagPollLayout, be16_ofBe16, List.getD_cons_zero, List.getD_cons_succ, List.drop_succ_cons, List.drop_zero,
      List.cons_append, List.nil_append, List.take_append_drop]

/-- R67: the row a frame is classified into has that frame's bytes. -/
theorem wireOf_classify (c : Config) (w : Wire) : wireOf c (classify c w) = some w := by
  obtain ⟨t, command, p, k⟩ := w
  cases t with
  | command =>
    simp only [classify, classifyCommand]
    split
    · obtain ⟨rfl, h⟩ := commandRow_spec ‹_›; simp [wireOf, List.eq_nil_of_length_eq_zero h]
    · obtain ⟨rfl, -⟩ := commandRow_spec ‹_›; rfl
    · obtain ⟨rfl, h⟩ := commandRow_spec ‹_›; simp [wireOf, List.eq_nil_of_length_eq_zero h]
    · obtain ⟨rfl, h⟩ := commandRow_spec ‹_›; simp only [wireOf, writeEpcLayout_fields h]
    · obtain ⟨rfl, -⟩ := commandRow_spec ‹_›; simp [wireOf]
    · obtain ⟨rfl, -⟩ := commandRow_spec ‹_›; rfl
    · obtain ⟨rfl, h⟩ := commandRow_spec ‹_›; simp [wireOf, List.eq_nil_of_length_eq_zero h]
    · rfl
  | response =>
    simp only [classify, classifyResponse]
    split
    · split
      · rename_i h; subst h; rfl
      · rfl
    · rfl
  | notice =>
    simp only [classify, classifyNotice]
    split
    · rename_i h; obtain ⟨rfl, h⟩ := h; simp only [wireOf, tagPollLayout_fields h]
    · rfl

end Sys2Proof

namespace Sys2Proof.Machine

/-- The meaning of a frame row is that the receive path takes its frame. -/
theorem exec_of_wireOf {i : Instr} {s : State} {w : Wire} (h : wireOf s.cfg i = some w) : exec i s = takeFrame w s := by
  cases i <;> simp only [wireOf, Option.some.injEq, reduceCtorEq] at h <;> subst h <;> rfl

/-- R106: where a candidate is in RXBUF, a step is one turn of the receive loop. -/
theorem step_of_receiveOne {s t : State} (h : s.beginRun.receiveOne = some t) : step s = .next t := by
  obtain ⟨candidate, rest, hx, ⟨f, hf, rfl⟩ | ⟨hf, rfl⟩⟩ := State.receiveOne_some h
  all_goals simp only [State.beginRun_rxbuf] at hx
  · unfold parseFrame at hf
    split at hf
    · rename_i w tl hw
      cases hf
      simp only [step, State.nextMove, State.fetchFrame, hx, decode, hw]
      rw [exec_of_wireOf (w := w) (by exact wireOf_classify _ _)]
      rfl
    · cases hf
  · unfold parseFrame at hf
    split at hf
    · cases hf
    · rename_i r hr
      simp only [step, State.nextMove, State.fetchFrame, hx, decode, hr]; rfl

/-- R198, R232: all that a step can do when it answers a next state. -/
inductive StepNext (s t : State) : Prop
  /-- one turn of the receive loop (R106) -/
  | received (h : s.beginRun.receiveOne = some t)
  /-- a request (R232) -/
  | requested (i : Instr) (rest : List Turn) (hx : extractFrame s.rxbuf = none) (ha : s.agenda = .request i :: rest)
      (hf : isFrameRow s.cfg i = false) (h : exec i (State.enterRun i { s with agenda := rest }) = .next t)
  /-- the block's next step (R232) -/
  | blockMoved (rest : List Turn) (hx : extractFrame s.rxbuf = none)
      (h : t = blockStep (State.beginRun { s with agenda := rest }))
  /-- a timer of the host (R195) -/
  | responseTimedOut (rest : List Turn) (hx : extractFrame s.rxbuf = none)
      (h : t = State.responseTimeout (State.beginRun { s with agenda := rest }))
  | verifyTimedOut (rest : List Turn) (index : Nat) (hx : extractFrame s.rxbuf = none)
      (h : t = State.verifyTimeout index (State.beginRun { s with agenda := rest }))
  /-- nothing can move (R233) -/
  | idle (ha : s.agenda = []) (h : t = s)

theorem step_next {s t : State} (h : step s = .next t) : StepNext s t := by
  cases hr : s.beginRun.receiveOne with
  | some t' =>
    rw [step_of_receiveOne hr] at h
    cases h; exact .received hr
  | none =>
    have hx : extractFrame s.rxbuf = none := (State.receiveOne_none (s := s.beginRun)).1 hr
    simp only [step, State.nextMove, State.fetchFrame, hx] at h
    cases ha : s.agenda with
    | nil =>
      have hs : { s with agenda := [] } = s := by rw [← ha]
      simp only [ha] at h
      cases h
      unfold State.restTurn
      split
      · exact .blockMoved [] hx (by rw [hs])
      · split
        · exact .responseTimedOut [] hx (by rw [hs])
        · split
          · exact .idle ha rfl
          · exact .verifyTimedOut [] 0 hx (by rw [hs])
    | cons turn rest =>
      simp only [ha] at h
      cases turn with
      | request i =>
        simp only [State.takeTurn] at h
        split at h
        · rename_i i' s' hm
          split at hm
          · cases hm
          · rename_i hf
            cases hm
            exact .requested i rest hx ha (by simpa using hf) h
        · rename_i o hm
          split at hm
          · cases hm; cases h
          · cases hm
      | block => cases h; exact .blockMoved rest hx rfl
      | responseTimeout => cases h; exact .responseTimedOut rest hx rfl
      | verifyTimeout index => cases h; exact .verifyTimedOut rest index hx rfl

end Sys2Proof.Machine
end

