-- ==== Sys2Proof/Laws/Phases.lean ====
section
/-! SUPPORT. The block's own steps K2 to K5, F1 and D2 to D5 (R131 to R133): all that each can do, and the steps the machine takes with no
turn left. -/

namespace Sys2Proof.Machine

theorem blockStep_idle {s : State} (h : s.busy = none) : blockStep s = s := by unfold blockStep; rw [h]

theorem blockStep_of {s : State} {p : Phase} (h : s.busy = some p) : blockStep s = phaseStep p s := by
  unfold blockStep; rw [h]

/-- R131, R132: the question of the steps K2 to K5 of `connect`; F1 and the steps of `disconnect` ask none. -/
def phaseQuestion (s : State) : Phase → Option EnvQuestion
  | .k2 => some (.openPort s.conn.portName s.conn.baudRate 8 1 .noParity)
  | .k3 => some .assertEnable
  | .k4 => some .settle
  | .k5 => some .attachReader
  | .f1 _ => none
  | .d2 => none
  | .d3 => none
  | .d4 => none
  | .d5 => none

/-- R131, R132: a step of `connect` that fails makes F1 the next one. -/
theorem phaseStep_fail {p : Phase} {s s' : State} {q : EnvQuestion} {msg : Text} {n : Nat} (hq : phaseQuestion s p = some q)
    (h : s.ask q = (.fail msg n, s')) : phaseStep p s = { s' with busy := some (.f1 msg) } := by
  cases p <;> simp only [phaseQuestion, Option.some.injEq, reduceCtorEq] at hq <;> subst hq <;>
    simp only [phaseStep, stepK2, stepK3, stepK4, stepK5, h]

/-- R131: step K2 that succeeds. -/
theorem phaseStep_k2_ok {s s' : State} (h : s.ask (.openPort s.conn.portName s.conn.baudRate 8 1 .noParity) = (.ok, s')) :
    phaseStep .k2 s = { s' with portOpen := true, busy := some .k3 } := by simp only [phaseStep, stepK2, h]

/-- R131: step K3 that succeeds. -/
theorem phaseStep_k3_ok {s s' : State} (h : s.ask .assertEnable = (.ok, s')) :
    phaseStep .k3 s
      = State.publish { s'.conn with moduleEnabled := true } { s'.driveEn .asserted with busy := some .k4 } := by
  simp only [phaseStep, stepK3, h]

/-- R131: step K4 that succeeds. -/
theorem phaseStep_k4_ok {s s' : State} (h : s.ask .settle = (.ok, s')) :
    phaseStep .k4 s = { s' with busy := some .k5 } := by simp only [phaseStep, stepK4, h]

/-- R131: step K5 that succeeds. -/
theorem phaseStep_k5_ok {s s' : State} (h : s.ask .attachReader = (.ok, s')) :
    phaseStep .k5 s
      = { (State.publish { s'.conn with status := .connected } { s' with readerActive := true }).giveResult
            (.transport .connect true) with busy := none } := by
  simp only [phaseStep, stepK5, h]

/-- R131, R132, R133: all that a step of the operation in progress can do: get a failing answer, or take its one
effect. -/
theorem phaseStep_cases (p : Phase) (s : State) :
    (∃ q msg, phaseQuestion s p = some q ∧ phaseStep p s = { (s.ask q).2 with busy := some (.f1 msg) })
    ∨ (p = .k2 ∧ ∃ q, phaseStep p s = { (s.ask q).2 with portOpen := true, busy := some .k3 })
    ∨ (p = .k3 ∧ ∃ q, phaseStep p s
        = State.publish { s.conn with moduleEnabled := true } { (s.ask q).2.driveEn .asserted with busy := some .k4 })
    ∨ (p = .k4 ∧ ∃ q, phaseStep p s = { (s.ask q).2 with busy := some .k5 })
    ∨ (p = .k5 ∧ ∃ q, phaseStep p s
        = { (State.publish { s.conn with status := .connected } { (s.ask q).2 with readerActive := true }).giveResult
              (.transport .connect true) with busy := none })
    ∨ (∃ msg, p = .f1 msg ∧ phaseStep p s = s.connectFailed msg)
    ∨ (p = .d2 ∧ phaseStep p s = stepD2 s) ∨ (p = .d3 ∧ phaseStep p s = stepD3 s)
    ∨ (p = .d4 ∧ phaseStep p s = stepD4 s) ∨ (p = .d5 ∧ phaseStep p s = stepD5 s) := by
  cases hq : phaseQuestion s p with
  | none => cases p <;> simp [phaseQuestion] at hq <;> simp [phaseStep]
  | some q =>
    rcases h : s.ask q with ⟨_ | ⟨msg, n⟩, s'⟩
    · right
      have e : s' = (s.ask q).2 := by rw [h]
      have ec : s'.conn = s.conn := by rw [e]; simp
      cases p <;> simp [phaseQuestion] at hq <;> subst hq
      · exact .inl ⟨rfl, _, by rw [phaseStep_k2_ok h, e]⟩
      · exact .inr (.inl ⟨rfl, _, by rw [phaseStep_k3_ok h, ec, e]⟩)
      · exact .inr (.inr (.inl ⟨rfl, _, by rw [phaseStep_k4_ok h, e]⟩))
      · exact .inr (.inr (.inr (.inl ⟨rfl, _, by rw [phaseStep_k5_ok h, ec, e]; rfl⟩)))
    · left; exact ⟨q, msg, rfl, by rw [phaseStep_fail hq h, h]⟩

/-- R231: with no frame to take and no turn left, an operation in progress goes on. -/
theorem step_in_progress {s : State} {p : Phase} (hx : extractFrame s.rxbuf = none) (ha : s.agenda = [])
    (hb : s.busy = some p) : step s = .next (phaseStep p s.beginRun) := by
  simp only [step, State.nextMove, State.fetchFrame, hx, ha, State.restTurn, hb, Option.isSome_some, if_true,
    blockStep_of (s := s.beginRun) hb]

/-- One step, then the rest of the run. -/
theorem run_of_step {n : Nat} {s t : State} (h : step s = .next t) :
    Host.Core.run Sys2Proof.core (n + 1) s = Host.Core.run Sys2Proof.core n t := by
  have h' : Sys2Proof.core.step s = .next t := h
  simp only [Host.Core.run]; rw [h']

end Sys2Proof.Machine
end

