-- ==== Sys2Proof/Laws/Push.lean ====
section
/-! SUPPORT. RxAppend and rx_push when the chunk fits and when it does not (R36, R106), one turn of the loop as an equation, and
that any fuel beyond RXBUF's length gives the same loop. -/

namespace Sys2Proof.Machine

open Sys2Proof.Safety

theorem State.rxAppend_fits {bs : List Byte} {s : State} (h : chunkFits bs s) :
    s.rxAppend bs = .ok { s with rxbuf := s.rxbuf ++ bs } := by
  unfold State.rxAppend
  split
  · rfl
  · rename_i cap hc
    have := h cap hc
    rw [if_neg (by omega)]

theorem State.rxAppend_overflow {bs : List Byte} {s : State} (h : ¬ chunkFits bs s) :
    s.rxAppend bs = .error .rxbufOverflow := by
  unfold State.rxAppend
  split
  · rename_i hn
    exact absurd (fun cap hc => by rw [hn] at hc; cases hc) h
  · rename_i cap hc
    rw [if_pos]
    by_contra hle
    exact h fun c hc' => by rw [hc] at hc'; cases hc'; omega

theorem State.rxPush_fits {bs : List Byte} {s : State} (h : chunkFits bs s) :
    s.rxPush bs = .ok (State.drain (s.rxbuf ++ bs).length { s with rxbuf := s.rxbuf ++ bs }) := by
  unfold State.rxPush; rw [State.rxAppend_fits h]

theorem State.rxPush_overflow {bs : List Byte} {s : State} (h : ¬ chunkFits bs s) :
    s.rxPush bs = .error .rxbufOverflow := by
  unfold State.rxPush; rw [State.rxAppend_overflow h]

theorem State.drain_succ {n : Nat} {s t : State} (h : s.receiveOne = some t) : State.drain (n + 1) s = State.drain n t := by
  conv => lhs; unfold State.drain
  rw [h]

/-- R106: with at least RXBUF's length as fuel the loop's result does not depend on the fuel. -/
theorem State.drain_fuel : ∀ (n m : Nat) (s : State), s.rxbuf.length ≤ n → s.rxbuf.length ≤ m →
    State.drain n s = State.drain m s := by
  intro n
  induction n with
  | zero =>
    intro m s h _
    have hx : extractFrame s.rxbuf = none := by
      rw [List.eq_nil_of_length_eq_zero (Nat.le_zero.1 h)]; exact extractFrame_no_header (by simp)
    rw [State.drain_of_drained m hx, State.drain_of_drained 0 hx]
  | succ n ih =>
    intro m s h₁ h₂
    cases h : s.receiveOne with
    | none => rw [State.drain_of_drained _ (State.receiveOne_none.1 h), State.drain_of_drained _ (State.receiveOne_none.1 h)]
    | some t =>
      have := (State.receiveOne_rxbuf h).1
      cases m with
      | zero => omega
      | succ m => rw [State.drain_succ h, State.drain_succ h]; exact ih _ _ (by omega) (by omega)

end Sys2Proof.Machine
end

