-- ==== Sys2Proof/Laws/Transport.lean ====
section
/-! SUPPORT. All that one step can do to the status, EN and the port (R130 to R138), said once (`TransportMove`); and the outbound
write with a scripted answer. -/

namespace Sys2Proof.Machine

/-- Status, EN, the port, the operation in progress and the configuration are as before. -/
def sameLink (s t : State) : Prop :=
  t.conn = s.conn ∧ t.en = s.en ∧ t.portOpen = s.portOpen ∧ t.busy = s.busy ∧ t.cfg = s.cfg

/-- What one step can do to the status, EN and the port. -/
inductive TransportMove (s t : State) : Prop
  /-- nothing -/
  | still (h : sameLink s t)
  /-- K1 -/
  | begins (hr : ∃ port baud rest, s.agenda = .request (.connect port baud) :: rest) (hb : s.busy = none)
      (hc : s.conn.status = .disconnected ∨ s.conn.status = .error)
      (h₁ : t.conn.status = .connecting) (h₂ : t.en = .deasserted) (h₃ : t.portOpen = s.portOpen)
  /-- D1 -/
  | ends (hr : ∃ rest, s.agenda = .request .disconnect :: rest) (hb : s.busy = none)
      (hc : s.conn.status = .connected) (h₁ : t.conn.status = .connected)
      (h₂ : t.en = .deasserted) (h₃ : t.portOpen = s.portOpen) (h₄ : t.busy = some .d2)
  /-- R136 -/
  | hwError (hr : ∃ msg rest, s.agenda = .request (.envHwError msg) :: rest) (hb : s.busy = none)
      (hc : s.conn.status = .connected) (h₁ : t.conn.status = .error)
      (h₂ : t.en = errorLine s.cfg.hwerrEnPolicy s) (h₃ : t.portOpen = errorPortOpen s.cfg.hwerrEnPolicy s)
  /-- R220 -/
  | poweredOn (hp : s.atPowerOn = true) (h₁ : t.conn = ConnectionState.reset) (h₂ : t.en = .deasserted)
      (h₃ : t.portOpen = false)
  /-- K2 to K5, with a failing answer -/
  | failing (p : Phase) (msg : Text) (hp : s.busy = some p) (hq : (phaseQuestion s p).isSome = true) (h₁ : t.conn = s.conn)
      (h₂ : t.en = s.en) (h₃ : t.portOpen = s.portOpen) (h₄ : t.busy = some (.f1 msg))
  /-- F1 -/
  | f1 (msg : Text) (hp : s.busy = some (.f1 msg)) (h₁ : t.conn.status = .error ∧ t.conn.errorMessage = some msg)
      (h₂ : t.en = .deasserted) (h₃ : t.portOpen = false) (h₄ : t.busy = none)
      (h₅ : t.results = s.results ++ [.transport .connect false])
  /-- K2 -/
  | k2 (hp : s.busy = some .k2) (h₁ : t.conn = s.conn) (h₂ : t.en = s.en) (h₃ : t.portOpen = true)
  /-- K3 -/
  | k3 (hp : s.busy = some .k3) (h₁ : t.conn.status = s.conn.status) (h₂ : t.en = .asserted)
      (h₃ : t.portOpen = s.portOpen)
  /-- K4, D2, D3 -/
  | waits (hp : s.busy = some .k4 ∨ s.busy = some .d2 ∨ s.busy = some .d3) (h₁ : t.conn = s.conn) (h₂ : t.en = s.en)
      (h₃ : t.portOpen = s.portOpen)
  /-- K5 -/
  | k5 (hp : s.busy = some .k5) (h₁ : t.conn.status = .connected) (h₂ : t.en = s.en) (h₃ : t.portOpen = s.portOpen)
  /-- D4 -/
  | d4 (hp : s.busy = some .d4) (h₁ : t.conn = s.conn) (h₂ : t.en = s.en) (h₃ : t.portOpen = false)
  /-- D5 -/
  | d5 (hp : s.busy = some .d5) (h₁ : t.conn.status = .disconnected) (h₂ : t.en = s.en) (h₃ : t.portOpen = s.portOpen)

theorem sameLink_receiveOne {s t : State} (h : s.receiveOne = some t) : sameLink s t := by
  obtain ⟨c, r, -, ⟨f, -, rfl⟩ | ⟨-, rfl⟩⟩ := State.receiveOne_some h
  · simp [sameLink]
  · simp [sameLink]

theorem sameLink_trans {a b c : State} (h : sameLink a b) (h' : sameLink b c) : sameLink a c := by
  simp only [sameLink] at *; simp [h, h']

theorem sameLink_drain {s : State} {n : Nat} : sameLink s (State.drain n s) :=
  State.drain_induction (P := sameLink s) (fun _ _ hab ha => sameLink_trans ha (sameLink_receiveOne hab)) n s (by simp [sameLink])

theorem sameLink_enterRun (i : Instr) (s : State) (rest : List Turn) :
    sameLink s (State.enterRun i { s with agenda := rest }) := by simp [sameLink]

/-- R131 to R138: the move of one step. -/
theorem step_transportMove {s t : State} (h : step s = .next t) : TransportMove s t := by
  cases step_next h with
  | idle ha h => subst h; exact .still (by simp [sameLink])
  | received h => exact .still (sameLink_trans (by simp [sameLink]) (sameLink_receiveOne h))
  | requested i rest _ ha hf h =>
    cases exec_next h with
    | quiet rs n h => subst h; exact .still (sameLink_enterRun i s rest)
    | delivered f h => subst h; exact .still (by simp [sameLink])
    | pushed chunk chunks s' h ht =>
      subst h
      obtain ⟨n, rfl, -⟩ := State.rxPush_ok ht
      exact .still (sameLink_trans (sameLink_enterRun i s rest) (sameLink_trans ⟨rfl, rfl, rfl, rfl, rfl⟩ sameLink_drain))
    | connecting port baud hi hb hc h =>
      subst h hi; exact .begins ⟨port, baud, rest, ha⟩ (by simpa using hb) (by simpa using hc) rfl (by simp) (by simp)
    | disconnecting hi hb hc h =>
      subst h hi
      exact .ends ⟨rest, ha⟩ (by simpa using hb) (by simpa using hc) (by simpa using hc) (by simp) (by simp) (by simp)
    | sent bs n rs p b hb hc h => subst h; exact .still (by simp [sameLink])
    | hwError msg hi hb hc h =>
      subst h hi
      refine .hwError ⟨msg, rest, ha⟩ (by simpa using hb) (by simpa using hc) (by simp) ?_ ?_
      · simp only [State.cancelHost_en, State.enterError_en, State.enterRun_cfg]
        cases s.cfg.hwerrEnPolicy <;> simp [errorLine]
      · simp only [State.cancelHost_portOpen, State.enterError, State.publish_portOpen, State.enterRun_cfg]
        cases s.cfg.hwerrEnPolicy <;> simp [errorPortOpen]
    | poweredOn hi hp h => subst h hi; exact .poweredOn hp rfl rfl rfl
    | waiting v h => subst h; exact .still (sameLink_enterRun i s rest)
  | blockMoved rest _ h =>
    subst h
    obtain hb | ⟨p, hb⟩ : s.busy = none ∨ ∃ p, s.busy = some p := by cases s.busy <;> simp
    · rw [blockStep_idle (s := State.beginRun { s with agenda := rest }) hb]; exact .still (by simp [sameLink])
    · rw [blockStep_of (s := State.beginRun { s with agenda := rest }) hb]
      rcases phaseStep_cases p (State.beginRun { s with agenda := rest }) with
        ⟨q, msg, hq, h⟩ | ⟨rfl, q, h⟩ | ⟨rfl, q, h⟩ | ⟨rfl, q, h⟩ | ⟨rfl, q, h⟩ | ⟨msg, rfl, h⟩ | ⟨rfl, h⟩ | ⟨rfl, h⟩ | ⟨rfl, h⟩ | ⟨rfl, h⟩
        <;> rw [h]
      · refine .failing p msg hb ?_ (by simp) (by simp) (by simp) rfl
        cases p <;> simp [phaseQuestion] at hq ⊢
      · exact .k2 hb (by simp) (by simp) (by simp)
      · exact .k3 hb (by simp) (by simp) (by simp)
      · exact .waits (.inl hb) (by simp) (by simp) (by simp)
      · exact .k5 hb (by simp) (by simp) (by simp)
      · exact .f1 msg hb ⟨rfl, rfl⟩ (by simp [State.connectFailed, errorLine])
          (by simp [State.connectFailed, State.enterError, errorPortOpen]) rfl (by simp [State.connectFailed])
      · exact .waits (.inr (.inl hb)) rfl rfl rfl
      · exact .waits (.inr (.inr hb)) rfl rfl rfl
      · exact .d4 hb rfl rfl rfl
      · exact .d5 hb rfl rfl rfl
  | responseTimedOut rest _ h =>
    subst h; unfold State.responseTimeout; split <;> exact .still (by simp [sameLink])
  | verifyTimedOut rest index _ h =>
    subst h; unfold State.verifyTimeout; split <;> exact .still (by simp [sameLink])

/-- R27: at power-on the link is off. -/
theorem State.atPowerOn_link {s : State} (h : s.atPowerOn = true) :
    s.conn = ConnectionState.reset ∧ s.en = .deasserted ∧ s.portOpen = false ∧ s.busy = none := by
  simp [State.atPowerOn] at h; simp [h]

/-- R134: in Connected, with no operation in progress and the answer ok, the bytes are sent. -/
theorem State.transportWrite_sends {s : State} {rest : List EnvAnswer} {bs : List Byte} (hc : s.conn.status = .connected)
    (hb : s.busy = none) (hq : s.answers = .ok :: rest) :
    s.transportWrite bs
      = .ok (true, { s with answers := rest, asked := s.asked ++ [.portWrite bs], tx := s.tx ++ bs }) := by
  simp only [State.transportWrite, hc, hb, State.ask_scripted hq]; rfl

/-- R50 to R56: a well-formed frame row has a frame the 16-bit length can describe. -/
theorem wellFormed_fits {c : Config} {i : Instr} {w : Wire} (hw : wireOf c i = some w) (hwf : wellFormed c i = true) :
    w.parameters.length ≤ maxParams := by
  cases i <;> simp only [wireOf, Option.some.injEq, reduceCtorEq] at hw <;> subst hw <;>
    simp only [wellFormed, paramsFit, Bool.and_eq_true, decide_eq_true_eq] at hwf
  case frameCommand => exact hwf.1
  case frameResponse => exact hwf.1
  case frameNotice => exact hwf.1
  case cmdStartPoll => exact hwf.1
  case cmdSetRfPower => exact hwf.1
  case cmdWriteEpc w b a n e k =>
    obtain ⟨⟨h₁, h₂⟩, -⟩ := hwf
    simp [writeEpcLayout, be16, h₁, h₂, passwordLen, epcLen, maxParams]
  case cmdLockTag =>
    obtain ⟨⟨h₁, h₂⟩, -⟩ := hwf
    simp [h₁, h₂, passwordLen, lockPayloadLen, maxParams]
  case noticeTagPoll r q e l k =>
    obtain ⟨h₁, h₂⟩ := hwf
    simp only [epcLen, maxParams] at h₁ h₂
    simp only [tagPollLayout, be16, maxParams, List.length_append, List.length_cons, List.length_nil, h₁]
    omega
  case responseSuccess => simp only [List.length_cons]; omega
  all_goals simp

end Sys2Proof.Machine
end

