-- ==== Sys2Proof/Tests/Slice0.lean ====
section
/-! SUPPORT. Tests: words written out from the layouts of spec/30_encoding.md, ill-formed terms, one step per operation with the
expected values of spec/95_test_vectors.md, and a witness for the hypotheses of every obligation that has some. -/

namespace Sys2Proof.Tests

open Sys2Proof Sys2Proof.Machine Sys2Proof.Safety

-- ## Helpers

/-- REFCFG with values for what it leaves open (any that meet R6). -/
def cfg : Config :=
  { Config.reference with
    rcInvalidCommand := 0x17, rcInvalidParameter := 0x0E, rcMemoryOverrun := 0xA3, rcMemoryLocked := 0xA4
    rcTagNotFound := 0x15, rcReadFailed := 0x09, rcWriteFailed := 0x18, rcLockFailed := 0x13
    enLine := .dtr, enActiveLevel := .low, disconnectDelayMs := 50, writeTimeoutMs := 500 }

/-- REFCFG's table codes with a small RXBUF (smaller than R6 admits: for the overflow clause only). -/
def cfgSmall : Config := { cfg with rxbufCap := some 4 }

/-- V22. -/
def a22 : List Byte := [0xBB, 0x01, 0x22, 0x00, 0x01, 0x10, 0x34, 0x7E]

/-- V22, the Frame. -/
def f22 : Frame :=
  { frameType := .response, command := 0x22, parameters := [0x10], rawBytes := some a22, checksumValid := true }

/-- V33. -/
def n33 : List Byte :=
  [0xBB, 0x02, 0x27, 0x00, 0x0F, 0xC8, 0x30, 0x00, 0x53, 0x56, 0x00, 0x01, 0x02, 0x03, 0x04, 0x05, 0x06, 0x07, 0x08, 0x09,
    0x06, 0x7E]

def epc1 : List Byte := [0x53, 0x56, 0x00, 0x01, 0x02, 0x03, 0x04, 0x05, 0x06, 0x07, 0x08, 0x09]

/-- V33, the tag observation. -/
def tag33 : TagPollData := { rssi := 0xC8, pc := 0x3000, epcBytes := epc1 }

/-- V33, the Frame. -/
def f33 : Frame :=
  { frameType := .notice, command := 0x27, parameters := [0xC8, 0x30, 0x00] ++ epc1, rawBytes := some n33
    checksumValid := true }

def start : State := State.resetWith cfg

/-- The events of V50, in order. -/
def connecting : ConnectionState :=
  { status := .connecting, portName := some "COM3", baudRate := some 115200, moduleEnabled := false, errorMessage := none }

def enabled : ConnectionState := { connecting with moduleEnabled := true }

def linked : ConnectionState := { enabled with status := .connected }

/-- After step K1 of V50. -/
def atK2 : State := { start with conn := connecting, stateOut := [connecting], busy := some .k2 }

def atK3 : State := { atK2 with portOpen := true, busy := some .k3 }

def atK4 : State :=
  { atK3 with conn := enabled, stateOut := [connecting, enabled], en := .asserted, enOut := [.asserted], busy := some .k4 }

def atK5 : State := { atK4 with busy := some .k5 }

/-- After a failing answer in K4 of V50: F1 is next. -/
def atF1 : State := { atK4 with busy := some (.f1 "m") }

/-- The end of V50. -/
def up : State :=
  { atK5 with conn := linked, stateOut := [connecting, enabled, linked], readerActive := true, busy := none }

/-- Connected, and the environment's next answers are ok, or a failure. -/
def upOk : State := { up with answers := [.ok] }

def upFail : State := { up with answers := [.fail "m" 7] }

/-- After step D1 of V53. -/
def atD2 : State :=
  { up with
    conn := { linked with moduleEnabled := false }
    stateOut := [connecting, enabled, linked, { linked with moduleEnabled := false }]
    en := .deasserted, enOut := [.asserted, .deasserted], busy := some .d2 }

def atD4 : State := { atD2 with readerActive := false, busy := some .d4 }

/-- Error, as at the end of V51. -/
def failed : State :=
  { start with
    conn := { connecting with status := .error, errorMessage := some "no such port" }
    stateOut := [connecting, { connecting with status := .error, errorMessage := some "no such port" }] }

/-- The next state, if there is one. -/
def nextOf (o : StepOutcome) : Option State :=
  match o with
  | .next t => some t
  | .fault _ => none
  | .refused _ => none

/-- The refusal, if there is one. -/
def refusalOf (o : StepOutcome) : Option Refusal :=
  match o with
  | .next _ => none
  | .fault _ => none
  | .refused r => some r

/-- The results after an instruction. -/
def resultsOf (i : Instr) (s : State) : Option (List Result) := (nextOf (exec i s)).map State.results

/-- The arguments that ArgumentErrors name, in the order of the results; their texts are free values. -/
def argumentsOf (rs : List Result) : List ArgumentName :=
  rs.filterMap fun r =>
    match r with
    | .argumentError which _ => some which
    | .host _ (.failure (.argument which _)) => some which
    | _ => none

-- ## Encoding: one word per frame row, written out from R50 and R62 to R64

theorem test_decode_frame_command :
    decode cfg [0xBB, 0x00, 0x7E, 0x00, 0x01, 0x7E, 0xFD, 0x7E] = .ok (.frameCommand 0x7E [0x7E] 0xFD, []) := by decide

theorem test_decode_frame_response :
    decode cfg [0xBB, 0x01, 0x49, 0x00, 0x01, 0x16, 0x61, 0x7E] = .ok (.frameResponse 0x49 [0x16] 0x61, []) := by decide

theorem test_decode_frame_notice :
    decode cfg [0xBB, 0x02, 0x27, 0x00, 0x04, 0xC8, 0x30, 0x00, 0x53, 0x78, 0x7E]
      = .ok (.frameNotice 0x27 [0xC8, 0x30, 0x00, 0x53] 0x78, []) := by decide

theorem test_decode_single_poll :
    decode cfg [0xBB, 0x00, 0x22, 0x00, 0x00, 0x22, 0x7E, 0xAA] = .ok (.cmdSinglePoll 0x22, [0xAA]) := by decide

theorem test_decode_start_poll :
    decode cfg [0xBB, 0x00, 0x27, 0x00, 0x03, 0x22, 0x27, 0x10, 0x83, 0x7E]
      = .ok (.cmdStartPoll [0x22, 0x27, 0x10] 0x83, []) := by decide

theorem test_decode_stop_poll :
    decode cfg [0xBB, 0x00, 0x28, 0x00, 0x00, 0x28, 0x7E] = .ok (.cmdStopPoll 0x28, []) := by decide

theorem test_decode_write_epc :
    decode cfg [0xBB, 0x00, 0x49, 0x00, 0x15, 0x12, 0x34, 0x56, 0x78, 0x01, 0x00, 0x02, 0x00, 0x06, 0x53, 0x56, 0x00, 0x01,
        0x02, 0x03, 0x04, 0x05, 0x06, 0x07, 0x08, 0x09, 0x51, 0x7E]
      = .ok (.cmdWriteEpc [0x12, 0x34, 0x56, 0x78] 0x01 0x0002 0x0006 epc1 0x51, []) := by decide

theorem test_decode_lock_tag :
    decode cfg [0xBB, 0x00, 0x82, 0x00, 0x07, 0x00, 0x00, 0xFF, 0xFF, 0x02, 0x00, 0x80, 0x09, 0x7E]
      = .ok (.cmdLockTag [0x00, 0x00, 0xFF, 0xFF] [0x02, 0x00, 0x80] 0x09, []) := by decide

theorem test_decode_set_rf_power :
    decode cfg [0xBB, 0x00, 0xB6, 0x00, 0x02, 0x07, 0xD0, 0x8F, 0x7E] = .ok (.cmdSetRfPower [0x07, 0xD0] 0x8F, []) := by
  decide

theorem test_decode_get_rf_power :
    decode cfg [0xBB, 0x00, 0xB7, 0x00, 0x00, 0xB7, 0x7E] = .ok (.cmdGetRfPower 0xB7, []) := by decide

theorem test_decode_tag_poll : decode cfg n33 = .ok (.noticeTagPoll 0xC8 0x3000 epc1 [] 0x06, []) := by decide

theorem test_decode_response_success : decode cfg a22 = .ok (.responseSuccess 0x22 [] 0x34, []) := by decide

/-- V24 to V28: the five reasons of R100, by name. -/
theorem test_decode_rejects :
    decode cfg [0xBB, 0x00, 0x22, 0x00, 0x00, 0x22] = .error .shorterThanSeven
    ∧ decode cfg [0xBA, 0x00, 0x22, 0x00, 0x00, 0x22, 0x7E] = .error .badHeader
    ∧ decode cfg [0xBB, 0x03, 0x22, 0x00, 0x00, 0x25, 0x7E] = .error .badFrameType
    ∧ decode cfg [0xBB, 0x00, 0x22, 0x00, 0x02, 0x01, 0x02] = .error .endNotPresent
    ∧ decode cfg [0xBB, 0x01, 0x22, 0x00, 0x01, 0x10, 0x34, 0x7F] = .error .badEnd := by decide

/-- R50, R62: encoding, for one row of each type; and a row without a bit pattern has no bytes (D3). -/
theorem test_encode :
    encode cfg (.cmdLockTag [0x00, 0x00, 0xFF, 0xFF] [0x02, 0x00, 0x80] 0x09)
      = some [0xBB, 0x00, 0x82, 0x00, 0x07, 0x00, 0x00, 0xFF, 0xFF, 0x02, 0x00, 0x80, 0x09, 0x7E]
    ∧ encode cfg (.responseSuccess 0x22 [] 0x34) = some a22
    ∧ encode cfg (.noticeTagPoll 0xC8 0x3000 epc1 [] 0x06) = some n33
    ∧ encode cfg .disconnect = none := by decide

/-- The table's word for CMD.SINGLE_POLL: byte 0 is the most significant of the five. -/
theorem test_table_word : decodeTableWord 40 0xBB00220000 = some (.cmdSinglePoll 0x22) := by decide

-- ## Well-formedness: an ill-formed term for each check

theorem test_wf_frame_command_special : wellFormed cfg (.frameCommand 0x22 [] 0x22) = false := by decide

theorem test_wf_frame_response_success : wellFormed cfg (.frameResponse 0x22 [0x10] 0x34) = false := by decide

theorem test_wf_frame_notice_tag :
    wellFormed cfg (.frameNotice 0x27 ([0xC8, 0x30, 0x00] ++ epc1) 0x06) = false := by decide

theorem test_wf_command_rows_of_another_code :
    wellFormed { cfg with cmdStopPoll := 0x22 } (.cmdStopPoll 0x22) = false
    ∧ wellFormed { cfg with cmdGetRfPower := 0x22 } (.cmdGetRfPower 0x22) = false
    ∧ wellFormed { cfg with cmdSinglePoll := 0x27, startPollParams := { listed := [], layout := [] } } (.cmdStartPoll [] 0x27)
      = false
    ∧ wellFormed { cfg with cmdSetRfPower := 0x22, powerEncode := { listed := [], layout := [] } } (.cmdSetRfPower [] 0x22)
      = false
    ∧ wellFormed { cfg with cmdLockTag := 0x27, startPollParams := { listed := [], layout := List.replicate 7 (.hi 1) } }
        (.cmdLockTag [0, 0, 0, 0] [0, 0, 0] 0) = false
    ∧ wellFormed { cfg with cmdWriteEpc := 0x27, startPollParams := { listed := [], layout := List.replicate 21 (.hi 1) } }
        (.cmdWriteEpc [0, 0, 0, 0] 1 2 6 epc1 0) = false := by decide

theorem test_wf_start_poll_length : wellFormed cfg (.cmdStartPoll [0x22, 0x27] 0) = false := by decide

theorem test_wf_set_rf_power_length : wellFormed cfg (.cmdSetRfPower [0x07] 0) = false := by decide

theorem test_wf_write_epc_password : wellFormed cfg (.cmdWriteEpc [0, 0, 0] 1 2 6 epc1 0) = false := by decide

theorem test_wf_write_epc_epc : wellFormed cfg (.cmdWriteEpc [0, 0, 0, 0] 1 2 6 [0x53] 0) = false := by decide

theorem test_wf_lock_tag_password : wellFormed cfg (.cmdLockTag [0, 0, 0] [0, 0, 0] 0) = false := by decide

theorem test_wf_lock_tag_payload : wellFormed cfg (.cmdLockTag [0, 0, 0, 0] [0, 0] 0) = false := by decide

theorem test_wf_tag_poll_epc : wellFormed cfg (.noticeTagPoll 0xC8 0x3000 [0x53] [] 0) = false := by decide

/-- R56: more than 65535 parameter bytes. -/
theorem test_wf_long (p : List Byte) (h : 65535 < p.length) :
    wellFormed cfg (.frameCommand 0x55 p 0) = false ∧ wellFormed cfg (.frameResponse 0x55 p 0) = false
    ∧ wellFormed cfg (.frameNotice 0x55 p 0) = false ∧ wellFormed cfg (.noticeTagPoll 0xC8 0x3000 epc1 p 0) = false
    ∧ wellFormed cfg (.responseSuccess 0x22 p 0) = false ∧ wellFormed cfg (.checksum 0 0 p) = false
    ∧ wellFormed cfg (.frameIsSuccess { f22 with parameters := p }) = false := by
  have hp : paramsFit p = false := decide_eq_false (by simp only [maxParams]; omega)
  refine ⟨?_, ?_, ?_, ?_, ?_, ?_, ?_⟩ <;> simp only [wellFormed, frameFits, hp, Bool.false_and]
  · exact Bool.and_eq_false_iff.2 (.inr (decide_eq_false (by simp only [maxParams]; omega)))
  · exact decide_eq_false (by simp only [maxParams]; omega)

theorem test_wf_tag_operand : wellFormed cfg (.epcHex { tag33 with epcBytes := [] }) = false := by decide

/-- R6: the configuration's own constraints, met and not met. -/
theorem test_cfg_valid :
    cfg.valid = true ∧ ({ cfg with cmdStopPoll := 0x27 } : Config).valid = false
    ∧ ({ cfg with rcTagNotFound := 0x10 } : Config).valid = false ∧ cfgSmall.valid = false
    ∧ ({ cfg with baudSet := [9600] } : Config).valid = false
    ∧ ({ cfg with settleDelayMs := 0 } : Config).valid = false
    ∧ ({ cfg with powerEncode := { listed := [], layout := [.hi 100] } } : Config).valid = false := by decide

-- ## The codec, encode side (95_test_vectors.md, B1 and B2)

/-- V1, V22. -/
theorem test_checksum :
    resultsOf (.checksum 0x00 0x00 []) start = some [.byte 0x00]
    ∧ resultsOf (.checksum 0x01 0x22 [0x10]) start = some [.byte 0x34] := by decide

/-- V22. -/
theorem test_encode_frame : resultsOf (.encodeFrame .response 0x22 [0x10]) start = some [.bytes a22] := by decide

/-- V2: the sum wraps. -/
theorem test_build_command :
    resultsOf (.buildCommand 0xFF [0xFF, 0xFF]) start
      = some [.bytes [0xBB, 0x00, 0xFF, 0x00, 0x02, 0xFF, 0xFF, 0xFF, 0x7E]] := by decide

/-- V21: more than 65535 parameter bytes. -/
theorem test_build_command_long (p : List Byte) (h : 65535 < p.length) :
    (resultsOf (.buildCommand 0x00 p) start).map argumentsOf = some [.parameters] := by
  simp only [resultsOf, exec, execBuildCommand, buildCommand_error h]; rfl

/-- V3. -/
theorem test_build_single_poll :
    resultsOf .buildSinglePoll start = some [.bytes [0xBB, 0x00, 0x22, 0x00, 0x00, 0x22, 0x7E]] := by decide

/-- V4, V6. -/
theorem test_build_start_poll :
    resultsOf (.buildStartPoll 10000) start
      = some [.bytes [0xBB, 0x00, 0x27, 0x00, 0x03, 0x22, 0x27, 0x10, 0x83, 0x7E]]
    ∧ resultsOf (.buildStartPoll 65535) start
      = some [.bytes [0xBB, 0x00, 0x27, 0x00, 0x03, 0x22, 0xFF, 0xFF, 0x4A, 0x7E]] := by decide

/-- V7, and a negative count. -/
theorem test_build_start_poll_range :
    (resultsOf (.buildStartPoll 65536) start).map argumentsOf = some [.count]
    ∧ (resultsOf (.buildStartPoll (-1)) start).map argumentsOf = some [.count] := by decide

/-- V8. -/
theorem test_build_stop_poll :
    resultsOf .buildStopPoll start = some [.bytes [0xBB, 0x00, 0x28, 0x00, 0x00, 0x28, 0x7E]] := by decide

/-- V10. -/
theorem test_build_write_epc :
    resultsOf (.buildWriteEpc [0x12, 0x34, 0x56, 0x78] epc1) start
      = some [.bytes [0xBB, 0x00, 0x49, 0x00, 0x15, 0x12, 0x34, 0x56, 0x78, 0x01, 0x00, 0x02, 0x00, 0x06, 0x53, 0x56, 0x00,
          0x01, 0x02, 0x03, 0x04, 0x05, 0x06, 0x07, 0x08, 0x09, 0x51, 0x7E]] := by decide

/-- V11. -/
theorem test_build_write_epc_lengths :
    (resultsOf (.buildWriteEpc [0, 0, 0, 0] (epc1 ++ [0])) start).map argumentsOf = some [.epc]
    ∧ (resultsOf (.buildWriteEpc [0, 0, 0] epc1) start).map argumentsOf = some [.password] := by decide

/-- V12. -/
theorem test_build_lock_tag :
    resultsOf (.buildLockTag [0x00, 0x00, 0xFF, 0xFF] [0x02, 0x00, 0x80]) start
      = some [.bytes [0xBB, 0x00, 0x82, 0x00, 0x07, 0x00, 0x00, 0xFF, 0xFF, 0x02, 0x00, 0x80, 0x09, 0x7E]] := by decide

/-- V13. -/
theorem test_build_lock_tag_lengths :
    (resultsOf (.buildLockTag [0x00, 0x00, 0xFF] [0x02, 0x00, 0x80]) start).map argumentsOf = some [.password]
    ∧ (resultsOf (.buildLockTag [0x00, 0x00, 0xFF, 0xFF] [0x02, 0x00, 0x80, 0x00]) start).map argumentsOf
      = some [.lockPayload] := by decide

/-- V15, V16. -/
theorem test_build_set_rf_power :
    resultsOf (.buildSetRfPower 20) start = some [.bytes [0xBB, 0x00, 0xB6, 0x00, 0x02, 0x07, 0xD0, 0x8F, 0x7E]]
    ∧ resultsOf (.buildSetRfPower 30) start = some [.bytes [0xBB, 0x00, 0xB6, 0x00, 0x02, 0x0B, 0xB8, 0x7B, 0x7E]] := by
  decide

/-- V17. -/
theorem test_build_set_rf_power_range :
    (resultsOf (.buildSetRfPower (-1)) start).map argumentsOf = some [.rfPower]
    ∧ (resultsOf (.buildSetRfPower 31) start).map argumentsOf = some [.rfPower] := by decide

/-- V18. -/
theorem test_build_get_rf_power :
    resultsOf .buildGetRfPower start = some [.bytes [0xBB, 0x00, 0xB7, 0x00, 0x00, 0xB7, 0x7E]] := by decide

-- ## The codec, decode side (B3 to B7)

/-- V22, V23. -/
theorem test_parse_frame :
    resultsOf (.parseFrame a22) start = some [.frame f22]
    ∧ resultsOf (.parseFrame [0xBB, 0x01, 0x22, 0x00, 0x01, 0x10, 0xCB, 0x7E]) start
      = some [.frame { f22 with
          rawBytes := some [0xBB, 0x01, 0x22, 0x00, 0x01, 0x10, 0xCB, 0x7E], checksumValid := false }] := by decide

/-- V28, V29. -/
theorem test_parse_frame_length :
    resultsOf (.parseFrame [0xBB, 0x00, 0x22, 0x00, 0x02, 0x01, 0x02]) start = some [.notParseable]
    ∧ resultsOf (.parseFrame [0xBB, 0x00, 0x22, 0x00, 0x00, 0x22, 0x7E, 0xAA, 0xBB]) start
      = some [.frame
          { frameType := .command, command := 0x22, parameters := []
            rawBytes := some [0xBB, 0x00, 0x22, 0x00, 0x00, 0x22, 0x7E], checksumValid := true }] := by decide

theorem test_checksum_valid : resultsOf (.frameChecksumValid f22) start = some [.flag true] := by decide

/-- V22, V30a, V30b. -/
theorem test_is_success :
    resultsOf (.frameIsSuccess f22) start = some [.flag true]
    ∧ resultsOf (.frameIsSuccess { f22 with parameters := [] }) start = some [.flag false]
    ∧ resultsOf (.frameIsSuccess { f22 with frameType := .notice }) start = some [.flag false] := by decide

/-- V30a, V30c, V30d. -/
theorem test_response_code :
    resultsOf (.frameResponseCode { f22 with parameters := [] }) start = some [.optByte none]
    ∧ resultsOf (.frameResponseCode { f22 with frameType := .command }) start = some [.optByte none]
    ∧ resultsOf (.frameResponseCode { f22 with parameters := [0x16] }) start = some [.optByte (some 0x16)] := by decide

/-- V31d, V31f, V31g. -/
theorem test_find_frame_end :
    resultsOf (.findFrameEnd [0xBB, 0x00, 0x22, 0x00, 0x00, 0x22]) start = some [.notFound]
    ∧ resultsOf (.findFrameEnd [0x11, 0xBB, 0x00, 0x22, 0x00, 0x00, 0x22, 0x7E, 0x33]) start = some [.found 7]
    ∧ resultsOf (.findFrameEnd [0xBB, 0x00, 0x22, 0x00, 0x00, 0x22, 0x00]) start = some [.found 6] := by decide

/-- V31c, V32. -/
theorem test_extract_frame :
    resultsOf (.extractFrame [0xBB, 0x00, 0x22, 0x00]) start = some [.incomplete]
    ∧ resultsOf (.extractFrame ([0x00, 0xFF] ++ a22 ++ [0xBB, 0x02])) start = some [.extracted a22 [0xBB, 0x02]] := by
  decide

/-- V46: both policies. -/
theorem test_rx_push_resync :
    (nextOf (exec (.rxPush ([0xBB, 0x01, 0x22, 0x00, 0x01, 0x10] ++ a22)) start)).map (fun t => (t.frameOut, t.rxbuf))
      = some ([], [0x22, 0x00, 0x01, 0x10, 0x34, 0x7E])
    ∧ (nextOf (exec (.rxPush ([0xBB, 0x01, 0x22, 0x00, 0x01, 0x10] ++ a22))
          { start with cfg := { cfg with resyncPolicy := .dropHeaderByte } })).map (fun t => (t.frameOut, t.rxbuf))
      = some ([f22], []) := by decide

/-- V41, V45: two frames in a chunk; a false header stalls. -/
theorem test_rx_push :
    (nextOf (exec (.rxPush (a22 ++ n33)) start)).map (fun t => (t.frameOut, t.rxbuf)) = some ([f22, f33], [])
    ∧ (nextOf (exec (.rxPush ([0xBB, 0x01, 0x22, 0x10, 0x00] ++ a22)) start)).map (fun t => (t.frameOut, t.rxbuf.length))
      = some ([], 13) := by decide

/-- V33, V34, V37a. -/
theorem test_parse_tag_poll :
    resultsOf (.parseTagPollData f33) start = some [.tagPoll tag33]
    ∧ resultsOf (.parseTagPollData { f33 with parameters := f33.parameters.take 14 }) start = some [.noData]
    ∧ resultsOf (.parseTagPollData { f33 with frameType := .response }) start = some [.noData] := by decide

/-- V33. -/
theorem test_epc_hex : resultsOf (.epcHex tag33) start = some [.text "535600010203040506070809"] := by decide

/-- V33, V38. -/
theorem test_is_reader_tag :
    resultsOf (.isReaderTag tag33) start = some [.flag true]
    ∧ resultsOf (.isReaderTag { tag33 with epcBytes := [0xE2, 0, 0, 0, 0, 0, 0, 0, 0, 0, 0, 0] }) start
      = some [.flag false] := by decide

/-- V39a, V39c, V39d. -/
theorem test_response_message :
    resultsOf (.responseMessage 0x10) start = some [.message (.labeled .success)]
    ∧ resultsOf (.responseMessage 0x0A) start = some [.message (.unknown "unknown error 0x0A")]
    ∧ resultsOf (.responseMessage cfg.rcTagNotFound) start = some [.message (.labeled .tagNotFound)] := by decide

-- ## Frames taken by a step, and the host's dispatch (R111, R161, R162)

/-- V49c: an inbound Command frame is emitted. -/
theorem test_step_command_frame :
    (nextOf (step (State.withFetchWord start 40 0xBB00220000))).map (fun t => (t.frameOut.length, t.rxbuf, t.results))
      = some (1, [], []) := by decide

/-- S8: single poll, no tag. -/
theorem test_response_to_waiter :
    (nextOf (exec (.responseSuccess 0x22 [] 0x34) { up with pending := some { op := .singlePoll, command := 0x22 } })).map
        (fun t => (t.frameOut, t.results, t.pending))
      = some ([f22], [.host .singlePoll (.tagReads [])], none) := by decide

/-- R161, R165: another command's Response is dropped; a failure carries its code and label. -/
theorem test_response_failure :
    (nextOf (exec (.frameResponse 0x49 [0x18] 0x63) { up with pending := some { op := .writeEpc, command := 0x49 } })).map
        (fun t => (t.results, t.pending))
      = some ([.host .writeEpc (.failure (.response (some 0x18) (some (.labeled .writeFailed))))], none)
    ∧ (nextOf (exec (.frameResponse 0x22 [0x18] 0x3C) { up with pending := some { op := .writeEpc, command := 0x49 } })).map
        (fun t => (t.results, t.pending))
      = some ([], some { op := .writeEpc, command := 0x49 }) := by decide

/-- S9, R167: a tag observation while polling. -/
theorem test_tag_poll_observed :
    (nextOf (exec (.noticeTagPoll 0xC8 0x3000 epc1 [] 0x06)
        { up with polling := true, verifies := [{ expected := epc1, timeout := 100 }] })).map
        (fun t => (t.frameOut, t.pollOut, t.verifies, t.results))
      = some ([f33], [tag33], [], [.host .verifyEpc (.verified epc1 true)]) := by decide

/-- R162: when not polling the observation is dropped. -/
theorem test_tag_poll_dropped :
    (nextOf (exec (.noticeTagPoll 0xC8 0x3000 epc1 [] 0x06) up)).map (fun t => (t.frameOut, t.pollOut)) = some ([f33], []) := by
  decide

-- ## The transport (B8)

/-- V50, step K1. -/
theorem test_connect :
    nextOf (exec (.connect "COM3" 115200) start) = some atK2
    ∧ refusalOf (exec (.connect "COM3" 115200) up) = some .outsideDiagram := by decide

/-- V50, steps K2 to K5. -/
theorem test_connect_steps :
    (nextOf (step { atK2 with answers := [.ok] })).map (fun t => (t.portOpen, t.busy)) = some (true, some .k3)
    ∧ (nextOf (step { atK3 with answers := [.ok] })).map (fun t => (t.conn, t.en)) = some (enabled, .asserted)
    ∧ (nextOf (step { atK4 with answers := [.ok] })).map (fun t => t.busy) = some (some .k5)
    ∧ (nextOf (step { atK5 with answers := [.ok] })).map (fun t => (t.conn, t.readerActive, t.busy, t.results))
      = some (linked, true, none, [.transport .connect true]) := by decide

/-- V52b: the settle wait fails, then F1. -/
theorem test_connect_fails :
    nextOf (step { atK4 with answers := [.fail "m" 0] }) = some { atF1 with runBegun := true, asked := [.settle] }
    ∧ (nextOf (step atF1)).map (fun t => (t.conn.status, t.conn.errorMessage, t.portOpen)) = some (.error, some "m", false)
    ∧ (nextOf (step atF1)).map (fun t => (t.enOut, t.results, t.busy))
      = some ([.asserted, .deasserted], [.transport .connect false], none) := by decide

/-- R198, R134, R141: between the failing answer and F1 the host may move: a write fails as in Connecting, a connect is refused. -/
theorem test_before_f1 :
    (nextOf (step { atF1 with agenda := [.request (.write [0xBB])] })).map (fun t => (t.tx, t.results, t.busy))
      = some ([], [.transport .write false], some (.f1 "m"))
    ∧ refusalOf (exec (.connect "COM3" 9600) atF1) = some .transportBusy := by decide

/-- V53, step D1 (R169: the waiter is failed); V56b. -/
theorem test_disconnect :
    (nextOf (exec .disconnect { up with pending := some { op := .writeEpc, command := 0x49 } })).map
        (fun t => (t.conn, t.en, t.busy, t.results))
      = some ({ linked with moduleEnabled := false }, .deasserted, some .d2, [.host .writeEpc (.failure .cancelled)])
    ∧ refusalOf (exec .disconnect start) = some .outsideDiagram := by decide

/-- V53, steps D4 and D5. -/
theorem test_disconnect_steps :
    (nextOf (step atD4)).map (fun t => (t.portOpen, t.busy)) = some (false, some .d5)
    ∧ (nextOf (step { atD4 with portOpen := false, busy := some .d5 })).map (fun t => (t.conn.status, t.busy, t.results))
      = some (.disconnected, none, [.transport .disconnect true]) := by decide

/-- V54a, V54d, V57. -/
theorem test_write :
    (nextOf (exec (.write [0xBB, 0x00]) start)).map (fun t => (t.tx, t.results)) = some ([], [.transport .write false])
    ∧ (nextOf (exec (.write [0xBB, 0x00]) { up with answers := [.ok] })).map (fun t => (t.tx, t.results))
      = some ([0xBB, 0x00], [.transport .write true])
    ∧ (nextOf (exec (.write [0xBB, 0x00]) { up with answers := [.fail "m" 1] })).map (fun t => (t.tx, t.results))
      = some ([0xBB], [.transport .write false]) := by decide

/-- V58, V59. -/
theorem test_rx_chunk :
    nextOf (exec (.envRxChunk a22) start) = some start
    ∧ (nextOf (exec (.envRxChunk a22) up)).map (fun t => (t.byteOut, t.frameOut, t.rxbuf)) = some ([a22], [f22], []) := by
  decide

/-- V55a, V55b. -/
theorem test_hw_error :
    (nextOf (exec (.envHwError "device removed") up)).map
        (fun t => (t.conn.status, t.conn.moduleEnabled, t.en, t.portOpen, t.readerActive))
      = some (.error, false, .deasserted, false, false)
    ∧ (nextOf (exec (.envHwError "device removed") { up with cfg := { cfg with hwerrEnPolicy := .keep } })).map
        (fun t => (t.conn.status, t.conn.moduleEnabled, t.en, t.portOpen, t.readerActive))
      = some (.error, true, .asserted, true, false) := by decide

/-- R220, U24: the first event of a run. -/
theorem test_reset :
    nextOf (exec .reset start) = some { start with runBegun := true } ∧ refusalOf (exec .reset up) = some .midRunReset := by
  decide

/-- R220, D24: a second reset, and a reset after an event that left everything else as it was. -/
theorem test_reset_first_event_only :
    ((nextOf (exec .reset start)).map fun t => refusalOf (exec .reset t)) = some (some .midRunReset)
    ∧ ((nextOf (step { start with agenda := [.request (.rxPush [])] })).map fun t => refusalOf (exec .reset t))
      = some (some .midRunReset)
    ∧ nextOf (step { start with agenda := [.request .reset] }) = some { start with runBegun := true } := by decide

-- ## The host (43_host_orchestrator.md)

/-- R163; the frame is V5. -/
theorem test_start_polling :
    (nextOf (exec .hostStartPolling { up with answers := [.ok] })).map (fun t => (t.tx, t.polling, t.results))
      = some ([0xBB, 0x00, 0x27, 0x00, 0x03, 0x22, 0x00, 0x00, 0x4C, 0x7E], true, [.host .startPolling .success])
    ∧ (nextOf (exec .hostStartPolling { up with polling := true })).map (fun t => (t.tx, t.results))
      = some ([], [.host .startPolling .success]) := by decide

/-- R163; the frame is V8. -/
theorem test_stop_polling :
    (nextOf (exec .hostStopPolling { up with polling := true, answers := [.ok] })).map (fun t => (t.tx, t.polling))
      = some ([0xBB, 0x00, 0x28, 0x00, 0x00, 0x28, 0x7E], false)
    ∧ resultsOf .hostStopPolling start = some [.host .stopPolling (.failure .notSent)] := by decide

/-- R164; the frame is V15; S6: 31 fails without a write. -/
theorem test_set_rf_power :
    (nextOf (exec (.hostSetRfPower 20) { up with answers := [.ok] })).map (fun t => (t.tx, t.pending))
      = some ([0xBB, 0x00, 0xB6, 0x00, 0x02, 0x07, 0xD0, 0x8F, 0x7E], some { op := .setRfPower, command := 0xB6 })
    ∧ (nextOf (exec (.hostSetRfPower 31) { up with answers := [.ok] })).map (fun t => (t.tx, t.pending, argumentsOf t.results))
      = some ([], none, [.rfPower]) := by decide

/-- R164; the frame is V18; R160: an occupied slot rejects. -/
theorem test_get_rf_power :
    (nextOf (exec .hostGetRfPower { up with answers := [.ok] })).map (fun t => (t.tx, t.pending))
      = some ([0xBB, 0x00, 0xB7, 0x00, 0x00, 0xB7, 0x7E], some { op := .getRfPower, command := 0xB7 })
    ∧ (nextOf (exec .hostGetRfPower { up with pending := some { op := .writeEpc, command := 0x49 } })).map
        (fun t => (t.tx, t.results))
      = some ([], [.host .getRfPower (.failure .slotOccupied)]) := by decide

/-- R165; the frame is V9. -/
theorem test_write_epc :
    (nextOf (exec (.hostWriteEpc epc1) { up with answers := [.ok] })).map (fun t => (t.tx, t.pending))
      = some ([0xBB, 0x00, 0x49, 0x00, 0x15, 0x00, 0x00, 0x00, 0x00, 0x01, 0x00, 0x02, 0x00, 0x06, 0x53, 0x56, 0x00, 0x01,
          0x02, 0x03, 0x04, 0x05, 0x06, 0x07, 0x08, 0x09, 0x3D, 0x7E], some { op := .writeEpc, command := 0x49 }) := by decide

/-- R166; the frame is V12. -/
theorem test_lock_tag :
    (nextOf (exec (.hostLockTag [0x00, 0x00, 0xFF, 0xFF] [0x02, 0x00, 0x80]) { up with answers := [.ok] })).map
        (fun t => (t.tx, t.pending))
      = some ([0xBB, 0x00, 0x82, 0x00, 0x07, 0x00, 0x00, 0xFF, 0xFF, 0x02, 0x00, 0x80, 0x09, 0x7E],
          some { op := .lockTag, command := 0x82 }) := by decide

/-- R171; the frame is V3; R168: outside Connected nothing is sent. -/
theorem test_single_poll :
    (nextOf (exec .hostSinglePoll { up with answers := [.ok] })).map (fun t => (t.tx, t.pending))
      = some ([0xBB, 0x00, 0x22, 0x00, 0x00, 0x22, 0x7E], some { op := .singlePoll, command := 0x22 })
    ∧ resultsOf .hostSinglePoll failed = some [.host .singlePoll (.failure .notSent)] := by decide

/-- R167. -/
theorem test_verify_epc :
    (nextOf (exec (.hostVerifyEpc epc1 100) up)).map State.verifies = some [{ expected := epc1, timeout := 100 }] := by decide

/-- S10, R195: the timers. -/
theorem test_timers :
    (nextOf (step { up with verifies := [{ expected := epc1, timeout := 100 }], agenda := [.verifyTimeout 0] })).map State.results
      = some [.host .verifyEpc (.verified epc1 false)]
    ∧ (nextOf (step { up with pending := some { op := .lockTag, command := 0x82 }, agenda := [.responseTimeout] })).map
        (fun t => (t.pending, t.results))
      = some (none, [.host .lockTag (.failure .timeout)]) := by decide

-- ## Witnesses: states and operands that meet the hypotheses of each obligation, at the borders of each clause

/-- A parameter layout of 65536 bytes: longer than any frame holds. -/
def longFn : ParamFn := { listed := [], layout := List.replicate 65536 (.hi 1) }

theorem length_longFn (n : Nat) : (applyParamFn longFn n).length = 65536 := by
  show ((List.replicate 65536 (LayoutByte.hi 1)).map (layoutByteAt n)).length = 65536
  rw [List.length_map, List.length_replicate]

theorem atK2_inv : TransportInv atK2 := by constructor <;> decide

theorem atK3_inv : TransportInv atK3 := by constructor <;> decide

theorem up_inv : TransportInv up := by constructor <;> decide

theorem atD2_inv : TransportInv atD2 := by constructor <;> decide

theorem atD4_inv : TransportInv atD4 := by constructor <;> decide

theorem failed_inv : TransportInv failed := by constructor <;> decide

theorem up_host : HostInv { up with pending := some { op := .lockTag, command := 0x82 }, polling := true } := by
  constructor <;> decide

theorem drained_of_empty {s : State} (h : s.rxbuf = []) : RxbufDrained s := by
  unfold RxbufDrained; rw [h]; decide

/-- DecodeOfEncode: a row of each type. -/
theorem test_witness_decode_of_encode :
    ∀ i ∈ [Instr.frameCommand 0x55 [] 0, .cmdWriteEpc [1, 2, 3, 4] 1 2 6 epc1 0x51, .frameResponse 0x22 [] 0x23,
        .responseSuccess 0x22 [] 0x34, .noticeTagPoll 0xC8 0x3000 epc1 [] 0x06,
        .frameNotice 0x27 ([0xC8, 0x30, 0x00] ++ epc1.take 11) 0xFC],
      wellFormed cfg i = true ∧ isFrameRow cfg i = true := by decide

/-- EncodeOfDecode. -/
theorem test_witness_encode_of_decode :
    decode cfg (n33 ++ [0xBB]) = .ok (.noticeTagPoll 0xC8 0x3000 epc1 [] 0x06, [0xBB]) := by decide

/-- ChecksumResult, EncodersResult: 0 and 65535 parameter bytes; TooLongParameters: 65536. -/
theorem test_witness_parameter_lengths :
    ([] : List Byte).length ≤ 65535 ∧ (List.replicate 65535 (0 : Byte)).length ≤ 65535
    ∧ 65535 < (List.replicate 65536 (0 : Byte)).length := by
  refine ⟨by decide, ?_, ?_⟩ <;> rw [List.length_replicate]
  omega

/-- BuildStartPollResult, BuildersExpand: counts 0 and 65535, the layout of REFCFG and one that no frame holds, counts -1 and 65536. -/
theorem test_witness_start_poll :
    (∀ n ∈ [(0 : Int), 65535], (0 ≤ n ∧ n ≤ 65535) ∧ (applyParamFn start.cfg.startPollParams n.toNat).length ≤ 65535)
    ∧ 65535 < (applyParamFn ({ cfg with startPollParams := longFn } : Config).startPollParams (65535 : Int).toNat).length
    ∧ ∀ n ∈ [(-1 : Int), 65536], n < 0 ∨ 65535 < n := by
  refine ⟨by decide, ?_, by decide⟩
  show 65535 < (applyParamFn longFn _).length
  rw [length_longFn]; omega

/-- BuildSetRfPowerResult, BuildersExpand: powers 0 and 30, the layout of REFCFG and one that no frame holds, powers -1 and 31. -/
theorem test_witness_set_rf_power :
    (∀ n ∈ [(0 : Int), 30], (0 ≤ n ∧ n ≤ 30) ∧ (applyParamFn start.cfg.powerEncode n.toNat).length ≤ 65535)
    ∧ 65535 < (applyParamFn ({ cfg with powerEncode := longFn } : Config).powerEncode (30 : Int).toNat).length
    ∧ ∀ n ∈ [(-1 : Int), 31], n < 0 ∨ 30 < n := by
  refine ⟨by decide, ?_, by decide⟩
  show 65535 < (applyParamFn longFn _).length
  rw [length_longFn]; omega

/-- BuildWriteEpcResult, BuildLockTagResult, BuildersExpand: good lengths, and each one off by one. -/
theorem test_witness_lengths :
    ([0, 0, 0, 0] : List Byte).length = 4 ∧ epc1.length = 12 ∧ ([0, 0, 0] : List Byte).length ≠ 4
    ∧ ([0, 0, 0, 0, 0] : List Byte).length ≠ 4 ∧ (epc1.take 11).length ≠ 12 ∧ (epc1 ++ [0]).length ≠ 12
    ∧ ([2, 0, 0x80] : List Byte).length = 3 ∧ ([2, 0] : List Byte).length ≠ 3
    ∧ ([2, 0, 0x80, 0] : List Byte).length ≠ 3 := by decide

/-- ParseFrameResult: V24 to V28, one per cause, and V22 for the other clause. -/
theorem test_witness_parse_frame :
    ([0xBB, 0x00, 0x22, 0x00, 0x00, 0x22] : List Byte).length < 7
    ∧ ([0xBA, 0x00, 0x22, 0x00, 0x00, 0x22, 0x7E] : List Byte).getD 0 0 ≠ 0xBB
    ∧ frameTypeOf (([0xBB, 0x03, 0x22, 0x00, 0x00, 0x25, 0x7E] : List Byte).getD 1 0) = none
    ∧ ([0xBB, 0x00, 0x22, 0x00, 0x02, 0x01, 0x02] : List Byte).length < 7 + u16be 0x00 0x02
    ∧ ([0xBB, 0x01, 0x22, 0x00, 0x01, 0x10, 0x34, 0x7F] : List Byte).getD (6 + u16be 0x00 0x01) 0 ≠ 0x7E
    ∧ (7 ≤ a22.length ∧ a22.getD 0 0 = 0xBB ∧ frameTypeOf (a22.getD 1 0) = some .response
      ∧ 7 + u16be (a22.getD 3 0) (a22.getD 4 0) ≤ a22.length ∧ a22.getD (6 + u16be (a22.getD 3 0) (a22.getD 4 0)) 0 = 0x7E) := by
  decide

/-- ChecksumFlip, FrameFlagsResult: V22 and V23. -/
theorem test_witness_checksum_flip :
    parseFrame a22 = some f22 ∧ f22.checksumValid = true ∧ (0xCB : Byte) ≠ a22.getD (5 + f22.parameters.length) 0 := by decide

/-- FindFrameEndResult, ExtractFrameResult: V31b; V31f. -/
theorem test_witness_find_frame_end :
    (0xBB : Byte) ∉ ([0x00, 0x01] : List Byte) ∧ (0xBB : Byte) ∉ ([0x11] : List Byte)
    ∧ findFrameEnd ([0x00, 0x01] : List Byte) = none
    ∧ findFrameEnd ([0x11] ++ 0xBB :: [0x00, 0x22, 0x00, 0x00, 0x22, 0x7E, 0x33]) = some 7 := by decide

/-- BuildersRoundTrip: a builder that returns bytes. -/
theorem test_witness_builders_round_trip :
    exec .buildSinglePoll start = .next { start with results := [.bytes [0xBB, 0x00, 0x22, 0x00, 0x00, 0x22, 0x7E]] } := by rfl

/-- RxPushDrains, RxPushLoop, RxChunkResult, EventsNotEnabled: 4 bytes fit in a buffer of 4, 5 do not; reader attached and not. -/
theorem test_witness_chunk_fits :
    chunkFits [1, 2, 3, 4] { up with cfg := cfgSmall } ∧ ¬ chunkFits [1, 2, 3, 4, 5] { up with cfg := cfgSmall }
    ∧ up.readerActive = true ∧ start.readerActive = false := by
  refine ⟨fun cap h => ?_, fun h => ?_, rfl, rfl⟩
  · cases h; decide
  · exact absurd (h 4 rfl) (by decide)

/-- RxPushLoop, StepRunsFrameAtHeader: no candidate; one that is a frame, with bytes after it; one that is none (V46). -/
theorem test_witness_rx_push_loop :
    extractFrame ([] ++ a22.take 7) = none
    ∧ (extractFrame (a22.take 3 ++ (a22.drop 3 ++ [0xBB])) = some (a22, [0xBB])
      ∧ decode cfg a22 = .ok (.responseSuccess 0x22 [] 0x34, []))
    ∧ extractFrame ([] ++ ([0xBB, 0x01, 0x22, 0x00, 0x01, 0x10] ++ a22))
      = some ([0xBB, 0x01, 0x22, 0x00, 0x01, 0x10, 0xBB, 0x01], [0x22, 0x00, 0x01, 0x10, 0x34, 0x7E])
    ∧ decode cfg [0xBB, 0x01, 0x22, 0x00, 0x01, 0x10, 0xBB, 0x01] = .error .badEnd := by decide

/-- RxPushLoop, StepRunsFrameAtHeader: V46 behind a byte of garbage, split at its first header, under each policy; what a step
leaves in RXBUF. -/
theorem test_witness_resync :
    [0x33] ++ ([0xBB, 0x01, 0x22, 0x00, 0x01, 0x10] ++ a22) = [0x33] ++ 0xBB :: ([0x01, 0x22, 0x00, 0x01, 0x10] ++ a22)
    ∧ (0xBB : Byte) ∉ ([0x33] : List Byte)
    ∧ cfg.resyncPolicy = .dropSpan ∧ ({ cfg with resyncPolicy := .dropHeaderByte } : Config).resyncPolicy = .dropHeaderByte
    ∧ (nextOf (step { start with rxbuf := [0x33] ++ ([0xBB, 0x01, 0x22, 0x00, 0x01, 0x10] ++ a22) })).map State.rxbuf
      = some [0x22, 0x00, 0x01, 0x10, 0x34, 0x7E]
    ∧ (nextOf (step { start with
        cfg := { cfg with resyncPolicy := .dropHeaderByte }
        rxbuf := [0x33] ++ ([0xBB, 0x01, 0x22, 0x00, 0x01, 0x10] ++ a22) })).map State.rxbuf
      = some ([0x01, 0x22, 0x00, 0x01, 0x10] ++ a22) := by decide

/-- SplitFrameReassembles, TwoFramesInOneChunk, GarbageBeforeFrame: V22 split after its first and before its last byte; V41; V42. -/
theorem test_witness_reassembly :
    parseFrame a22 = some f22 ∧ f22.rawBytes = some a22 ∧ parseFrame n33 = some f33 ∧ f33.rawBytes = some n33
    ∧ (0 < 1 ∧ 1 < a22.length) ∧ (0 < 7 ∧ 7 < a22.length) ∧ start.rxbuf = []
    ∧ (0xBB : Byte) ∉ ([0x00, 0xFF, 0x7E, 0x11] : List Byte) ∧ ∀ b, chunkFits b start := by
  refine ⟨by decide, by decide, by decide, by decide, by decide, by decide, by decide, by decide, fun b cap h => ?_⟩
  cases h

/-- ParseTagPollResult: V33 with 15 parameter bytes; V34 with 14, V37a, V37b. -/
theorem test_witness_parse_tag_poll :
    (f33.frameType = .notice ∧ f33.command = start.cfg.cmdPollNotice ∧ 15 ≤ f33.parameters.length)
    ∧ ∀ f ∈ [{ f33 with parameters := f33.parameters.take 14 }, { f33 with frameType := .response },
        { f33 with command := 0x22 }],
      ¬ (f.frameType = .notice ∧ f.command = start.cfg.cmdPollNotice ∧ 15 ≤ f.parameters.length) := by decide

/-- EpcHexResult, IsReaderTagResult; ResponseMessageResult. -/
theorem test_witness_tag_and_codes : tag33.epcBytes.length = 12 ∧ start.cfg.responseCodesDistinct = true := by decide

/-- CommandFramesOnlyEmitted: all eight rows. -/
theorem test_witness_command_frames :
    ∀ i ∈ [Instr.frameCommand 0x55 [1] 0, .cmdSinglePoll 0, .cmdStartPoll [0x22, 0, 0] 0, .cmdStopPoll 0,
        .cmdWriteEpc [0, 0, 0, 0] 1 2 6 epc1 0, .cmdLockTag [0, 0, 0, 0] [2, 0, 0x80] 0, .cmdSetRfPower [7, 0xD0] 0,
        .cmdGetRfPower 0],
      wellFormed up.cfg i = true := by decide

/-- ResponseFramesDispatched: both rows; a pending command that matches, one that does not, and none. -/
theorem test_witness_response_frames :
    wellFormed up.cfg (.frameResponse 0x22 [0x16] 0) = true ∧ wellFormed up.cfg (.responseSuccess 0x22 [] 0) = true
    ∧ (∃ w, ({ up with pending := some { op := .singlePoll, command := 0x22 } } : State).pending = some w ∧ w.command = 0x22)
    ∧ (∀ w, ({ up with pending := some { op := .lockTag, command := 0x82 } } : State).pending = some w → w.command ≠ 0x22)
    ∧ up.pending = none := by
  refine ⟨by decide, by decide, ⟨_, rfl, rfl⟩, fun w h => ?_, rfl⟩
  cases h; decide

/-- WaiterOutcomes: V22, V30d, and V30a (no parameter byte). -/
theorem test_witness_waiter_outcomes :
    ({ f22 with parameters := [] } : Frame).frameType = .response ∧ ({ f22 with parameters := [] } : Frame).parameters = []
    ∧ f22.frameType = .response ∧ f22.parameters.head? = some 0x10 ∧ f22.parameters = [0x10]
    ∧ ({ f22 with parameters := [0x16] } : Frame).parameters.head? = some 0x16 ∧ (0x16 : Byte) ≠ 0x10 := by decide

/-- NoticeFramesDispatched: polling and not; other Notices: another command, and 14 parameter bytes. -/
theorem test_witness_notice_frames :
    wellFormed up.cfg (.noticeTagPoll 0xC8 0x3000 epc1 [] 0x06) = true ∧ up.polling = false
    ∧ ({ up with polling := true } : State).polling = true
    ∧ wellFormed up.cfg (.frameNotice 0x22 ([0xC8, 0x30, 0x00] ++ epc1) 0) = true
    ∧ wellFormed up.cfg (.frameNotice 0x27 ([0xC8, 0x30, 0x00] ++ epc1.take 11) 0) = true := by decide

/-- ConnectBegins, OutsideDiagramRefused: each status, idle and busy. -/
theorem test_witness_statuses :
    (start.busy = none ∧ start.conn.status = .disconnected) ∧ (failed.busy = none ∧ failed.conn.status = .error)
    ∧ (up.busy = none ∧ up.conn.status = .connected)
    ∧ (({ atK2 with busy := none } : State).busy = none ∧ atK2.conn.status = .connecting)
    ∧ atK2.busy ≠ none ∧ (atD2.busy ≠ none ∧ atD2.conn.status = .connected) := by decide

/-- OutsideDiagramRefused: a disconnect in progress with the slot free, polling off and on, good arguments; what one host
operation answers there. -/
theorem test_witness_busy_host :
    (∀ s ∈ [atD2, { atD2 with polling := true }], s.busy ≠ none ∧ s.conn.status = .connected ∧ s.pending = none
      ∧ s.password.length = 4 ∧ (applyParamFn s.cfg.startPollParams 0).length ≤ 65535)
    ∧ atD2.polling = false ∧ ({ atD2 with polling := true } : State).polling = true
    ∧ (∀ v ∈ [(0 : Int), 30], (0 ≤ v ∧ v ≤ 30) ∧ (applyParamFn atD2.cfg.powerEncode v.toNat).length ≤ 65535)
    ∧ refusalOf (exec .hostSinglePoll atD2) = some .transportBusy := by decide

/-- ConnectSucceeds. -/
theorem test_witness_connect_succeeds :
    TransportInv { atK2 with answers := [.ok, .ok, .ok, .ok] } ∧ RxbufDrained { atK2 with answers := [.ok, .ok, .ok, .ok] }
    ∧ atK2.busy = some .k2 ∧ atK2.agenda = [] := by
  refine ⟨?_, drained_of_empty rfl, rfl, rfl⟩
  constructor <;> decide

/-- ConnectFails: each of the four steps, with a failing answer and with none; F1. -/
theorem test_witness_connect_fails :
    (∀ x ∈ [(Phase.k2, atK2), (.k3, atK3), (.k4, atK4), (.k5, atK5)],
      x.2.busy = some x.1 ∧ extractFrame x.2.rxbuf = none ∧ x.2.agenda = [] ∧ x.2.answers = []
      ∧ ({ x.2 with answers := [.fail "m" 0] } : State).answers = .fail "m" 0 :: [])
    ∧ atF1.busy = some (.f1 "m") ∧ extractFrame atF1.rxbuf = none ∧ atF1.agenda = [] := by decide

/-- DisconnectCompletes. -/
theorem test_witness_disconnect_completes :
    TransportInv atD2 ∧ RxbufDrained atD2 ∧ atD2.busy = some .d2 ∧ atD2.agenda = [] :=
  ⟨atD2_inv, drained_of_empty rfl, rfl, rfl⟩

/-- WriteResult: every status; both answers, and none scripted. -/
theorem test_witness_write :
    start.conn.status ≠ .connected ∧ atK2.conn.status ≠ .connected ∧ failed.conn.status ≠ .connected
    ∧ (upOk.conn.status = .connected ∧ upOk.busy = none ∧ upOk.answers = .ok :: [])
    ∧ (upFail.conn.status = .connected ∧ upFail.busy = none ∧ upFail.answers = .fail "m" 7 :: [])
    ∧ (up.conn.status = .connected ∧ up.busy = none ∧ up.answers = []) := by decide

/-- DecodingLeavesTransport. -/
theorem test_witness_decoding :
    nextOf (exec (.rxPush [0x01]) start) = some { start with rxbuf := [0x01] }
    ∧ nextOf (exec (.envRxChunk [0x01]) up) = some { up with rxbuf := [0x01], byteOut := [[0x01]] } := by decide

/-- HwErrorResult: outside Connected, during a disconnect, and in Connected under each policy. -/
theorem test_witness_hw_error :
    start.conn.status ≠ .connected ∧ atD2.busy ≠ none ∧ (up.conn.status = .connected ∧ up.busy = none)
    ∧ ∀ p ∈ [HwerrEnPolicy.deassert, .keep, .any], ({ up with cfg := { cfg with hwerrEnPolicy := p } } : State).cfg.hwerrEnPolicy = p := by
  decide

/-- ResetResult: at power-on with inputs still to come, in mid-run, after an event that changed nothing else, and a step. -/
theorem test_witness_reset : ({ start with agenda := [.block], answers := [.ok], draws := 3 } : State).atPowerOn = true
    ∧ up.atPowerOn = false ∧ ({ start with runBegun := true } : State).runBegun = true
    ∧ nextOf (step { start with agenda := [.block] }) = some { start with runBegun := true } := by decide

/-- HostPollingResult: the write answered ok, failing, and without a scripted answer, for both operations. -/
theorem test_witness_host_polling :
    start.conn.status ≠ .connected
    ∧ (∀ s ∈ [upFail, up], ∀ wanted ∈ [true, false],
      ({ s with polling := !wanted } : State).conn.status = .connected ∧ ({ s with polling := !wanted } : State).busy = none
      ∧ ({ s with polling := !wanted } : State).polling ≠ wanted
      ∧ (applyParamFn ({ s with polling := !wanted } : State).cfg.startPollParams 0).length ≤ 65535)
    ∧ upFail.answers = .fail "m" 7 :: [] ∧ up.answers = []
    ∧ (upOk.conn.status = .connected ∧ upOk.busy = none ∧ upOk.answers = .ok :: [] ∧ upOk.polling = false
      ∧ (applyParamFn upOk.cfg.startPollParams 0).length ≤ 65535)
    ∧ (∀ s ∈ [{ upOk with polling := true }],
      s.conn.status = .connected ∧ s.busy = none ∧ s.answers = .ok :: [] ∧ s.polling = true) := by decide

/-- HostCommandsSend, HostArgumentErrors, HostCommandsRejected: powers 0 and 30, -1 and 31; slot free and occupied. -/
theorem test_witness_host_commands :
    (∀ s ∈ [upOk, upFail, up, { upOk with pending := some { op := .lockTag, command := 0x82 } }, failed], ∀ v ∈ [(0 : Int), 30],
      (0 ≤ v ∧ v ≤ 30) ∧ (applyParamFn s.cfg.powerEncode v.toNat).length ≤ 65535 ∧ s.password.length = 4)
    ∧ epc1.length = 12 ∧ ([0, 0, 0xFF, 0xFF] : List Byte).length = 4 ∧ ([2, 0, 0x80] : List Byte).length = 3
    ∧ (upOk.conn.status = .connected ∧ upOk.busy = none ∧ upOk.pending = none ∧ upOk.answers = .ok :: [])
    ∧ (∀ v ∈ [(-1 : Int), 31], v < 0 ∨ 30 < v)
    ∧ ({ upOk with pending := some { op := .lockTag, command := 0x82 } } : State).pending ≠ none
    ∧ (failed.pending = none ∧ failed.conn.status ≠ .connected)
    ∧ (∀ s ∈ [upFail, up], s.pending = none ∧ s.conn.status = .connected ∧ s.busy = none)
    ∧ upFail.answers = .fail "m" 7 :: [] ∧ up.answers = [] := by decide

/-- WaitsAndTimers: a command that waits; the last of two waiting verify_epc. -/
theorem test_witness_timers :
    (∀ s : State, s = { up with agenda := [.responseTimeout], pending := some { op := .lockTag, command := 0x82 } } →
      RxbufDrained s ∧ s.agenda = .responseTimeout :: [] ∧ s.pending = some { op := .lockTag, command := 0x82 })
    ∧ ∀ s : State, s = { up with
        agenda := [.verifyTimeout 1]
        verifies := [{ expected := [], timeout := 0 }, { expected := epc1, timeout := 100 }] } →
      RxbufDrained s ∧ s.agenda = .verifyTimeout 1 :: [] ∧ s.verifies[1]? = some { expected := epc1, timeout := 100 } := by
  refine ⟨fun s h => ?_, fun s h => ?_⟩ <;> subst h <;> exact ⟨drained_of_empty rfl, rfl, rfl⟩

/-- StepRunsFrameAtHeader: garbage, a frame and a rest; V31g for the bytes that are no frame. -/
theorem test_witness_step_frame :
    wellFormed up.cfg (.responseSuccess 0x22 [] 0x34) = true ∧ encode up.cfg (.responseSuccess 0x22 [] 0x34) = some a22
    ∧ (0xBB : Byte) ∉ ([0x00, 0xFF] : List Byte)
    ∧ ({ up with rxbuf := [0x00, 0xFF] ++ a22 ++ [0xBB] } : State).rxbuf = [0x00, 0xFF] ++ a22 ++ [0xBB]
    ∧ extractFrame ([0xBB, 0x00, 0x22, 0x00, 0x00, 0x22, 0x00] : List Byte)
      = some ([0xBB, 0x00, 0x22, 0x00, 0x00, 0x22, 0x00], [])
    ∧ parseFrame ([0xBB, 0x00, 0x22, 0x00, 0x00, 0x22, 0x00] : List Byte) = none := by decide

/-- StepRunsAgenda: each clause. -/
theorem test_witness_step_agenda :
    RxbufDrained up ∧ isFrameRow up.cfg .disconnect = false ∧ isFrameRow up.cfg (.cmdSinglePoll 0x22) = true
    ∧ ({ up with agenda := [.request .disconnect, .block] } : State).agenda = .request .disconnect :: [.block]
    ∧ (atK2.agenda = [] ∧ atK2.busy ≠ none)
    ∧ (up.agenda = [] ∧ up.busy = none ∧ up.pending = none ∧ up.verifies = []) :=
  ⟨drained_of_empty rfl, by decide, by decide, rfl, by decide, by decide⟩

/-- StepRunsAgenda: a reset and the other turns, each timer with nothing waiting, and the empty agenda with a command and with a
verify_epc waiting. -/
theorem test_witness_step_turns :
    (∀ t ∈ [Turn.request .reset, .block, .responseTimeout, .verifyTimeout 0],
      ({ up with agenda := [t] } : State).agenda = t :: [])
    ∧ up.pending = none ∧ up.verifies[0]? = none ∧ up.busy = none ∧ up.agenda = []
    ∧ ({ up with pending := some { op := .lockTag, command := 0x82 } } : State).pending
      = some { op := .lockTag, command := 0x82 }
    ∧ ({ up with verifies := [{ expected := epc1, timeout := 100 }] } : State).verifies
      = { expected := epc1, timeout := 100 } :: [] ∧ (Instr.disconnect ≠ .reset) := by decide

/-- StepKeepsTransportInvariants, StepKeepsRxbufDrained, StatusFollowsDiagram, StreamsOnlyGrow: step K3 of a connect. -/
theorem test_witness_invariants :
    TransportInv { atK3 with answers := [.ok] } ∧ RxbufDrained { atK3 with answers := [.ok] }
    ∧ nextOf (step { atK3 with answers := [.ok] }) = some { atK4 with runBegun := true, asked := [.assertEnable] } := by
  refine ⟨?_, drained_of_empty rfl, by decide⟩
  constructor <;> decide

/-- StepKeepsHostInvariants: a Response timeout while polling. -/
theorem test_witness_host_invariants :
    HostInv { up with pending := some { op := .lockTag, command := 0x82 }, polling := true }
    ∧ (nextOf (step { up with pending := some { op := .lockTag, command := 0x82 }, polling := true })).map State.pending
      = some none := ⟨up_host, by decide⟩

/-- StatusFollowsDiagram: the states in which each arc is taken (K5 answered ok; F1; D5); the others are `test_witness_statuses`,
`test_witness_connect_fails` and `test_witness_hw_error`. -/
theorem test_witness_arcs :
    (({ atK5 with answers := [.ok] } : State).busy = some .k5 ∧ ({ atK5 with answers := [.ok] } : State).answers = .ok :: [])
    ∧ ({ atD4 with portOpen := false, busy := some .d5 } : State).busy = some .d5
    ∧ TransportInv atF1 ∧ atF1.conn.status = .connecting ∧ TransportInv { atD4 with portOpen := false, busy := some .d5 } := by
  refine ⟨by decide, rfl, ?_, rfl, ?_⟩ <;> constructor <;> decide

/-- Error under the policy keep, EN still asserted. -/
def failedOn : State :=
  { up with
    cfg := { cfg with hwerrEnPolicy := .keep }, readerActive := false
    conn := { enabled with status := .error, errorMessage := some "m" }
    stateOut := up.stateOut ++ [{ enabled with status := .error, errorMessage := some "m" }] }

/-- EnableLineRule: under the policy keep, `connect` finds EN asserted in Error and deasserts it in K1. -/
theorem test_witness_enable_line_keep :
    TransportInv failedOn ∧ failedOn.en = .asserted ∧ failedOn.cfg.hwerrEnPolicy ≠ .deassert
    ∧ (nextOf (step { failedOn with agenda := [.request (.connect "COM3" 9600)] })).map State.en = some .deasserted :=
  ⟨by constructor <;> decide, rfl, by decide, by decide⟩

/-- EnableLineRule, PowerDownBeforePortClose: K3 asserts EN, D1 deasserts it, D4 closes the port, and an Error does both. -/
theorem test_witness_enable_line :
    (TransportInv atK3 ∧ atK3.cfg.hwerrEnPolicy = .deassert ∧ atK3.en = .deasserted)
    ∧ (TransportInv up ∧ up.en = .asserted ∧ up.portOpen = true)
    ∧ (nextOf (step { up with agenda := [.request .disconnect] })).map State.en = some .deasserted
    ∧ (nextOf (step { up with agenda := [.request (.envHwError "m")] })).map (fun t => (t.en, t.portOpen))
      = some (.deasserted, false)
    ∧ (atF1.en = .asserted ∧ (nextOf (step atF1)).map (fun t => (t.en, t.portOpen)) = some (.deasserted, false))
    ∧ (TransportInv atD4 ∧ atD4.portOpen = true ∧ (nextOf (step atD4)).map State.portOpen = some false) :=
  ⟨⟨atK3_inv, rfl, rfl⟩, ⟨up_inv, rfl, rfl⟩, by decide, by decide, by decide, ⟨atD4_inv, rfl, by decide⟩⟩

/-- EventsNotEnabled: quiescent in Disconnected and in Error. -/
theorem test_witness_quiescent : (TransportInv failed ∧ quiescent failed) ∧ quiescent start :=
  ⟨⟨failed_inv, .inr rfl, rfl⟩, .inl rfl, rfl⟩

end Sys2Proof.Tests
end

section
/-! PROOFS. The family State: what every step keeps (R26), what a reset gives (R27, R220), and that the codec's operations are
pure (R10, R24). -/

namespace Sys2Proof.Safety

open Sys2Proof.Machine

-- ### What the phase says of the levels

/-- R26 (a) to (c), R137, R30: CONN agrees with itself, with EN and with its own history, and EN with its history. -/
structure ConnAgrees (s : State) : Prop where
  message_iff : s.conn.errorMessage.isSome = true ↔ s.conn.status = .error
  named : s.conn.status = .connecting ∨ s.conn.status = .connected →
    s.conn.portName.isSome = true ∧ s.conn.baudRate.isSome = true
  enabled_iff : s.conn.moduleEnabled = true ↔ s.en = .asserted
  latest_conn : s.conn = s.stateOut.getLastD ConnectionState.reset
  latest_en : s.en = s.enOut.getLastD .deasserted

/-- EN, PORT_OPEN and READER_ACTIVE have these values. -/
def levelsAre (s : State) (en : Line) (portOpen readerActive : Bool) : Prop :=
  s.en = en ∧ s.portOpen = portOpen ∧ s.readerActive = readerActive

/-- R18, R26 (d), (e), (f): the levels that go with a status while no operation is in progress. -/
def idleLevels (s : State) : Prop :=
  match s.conn.status with
  | .disconnected => levelsAre s .deasserted false false
  | .connecting => False
  | .connected => levelsAre s .asserted true true
  | .error => s.readerActive = false ∧ (s.cfg.hwerrEnPolicy = .deassert → levelsAre s .deasserted false false)

/-- R131 to R133: the status and the levels that go with the operation in progress: between two steps the phase fixes them. In
K2 the port is as Error left it, and in F1 the levels are those of the step that failed. -/
def phaseLevels (s : State) : Prop :=
  match s.busy with
  | none => idleLevels s
  | some .k2 => s.conn.status = .connecting ∧ s.en = .deasserted ∧ s.readerActive = false
  | some .k3 => s.conn.status = .connecting ∧ levelsAre s .deasserted true false
  | some .k4 => s.conn.status = .connecting ∧ levelsAre s .asserted true false
  | some .k5 => s.conn.status = .connecting ∧ levelsAre s .asserted true false
  | some (.f1 _) => s.conn.status = .connecting ∧ s.readerActive = false ∧ (s.en = .asserted → s.portOpen = true)
  | some .d2 => s.conn.status = .connected ∧ levelsAre s .deasserted true true
  | some .d3 => s.conn.status = .connected ∧ levelsAre s .deasserted true true
  | some .d4 => s.conn.status = .connected ∧ levelsAre s .deasserted true false
  | some .d5 => s.conn.status = .connected ∧ levelsAre s .deasserted false false

theorem TransportInv.connAgrees {s : State} (h : TransportInv s) : ConnAgrees s :=
  ⟨h.message_iff, h.named, h.enabled_iff, h.latest_conn, h.latest_en⟩

theorem TransportInv.levels_of_phase {s : State} (h : TransportInv s) : phaseLevels s := by
  obtain ⟨-, -, -, hoff, herr, -, hreader, -, -, hconn, hdisc, hk3, hk4, hopen, hport, hd1, hd4, hd5, hon, -, -⟩ := h
  unfold phaseLevels
  cases hb : s.busy with
  | none =>
    unfold idleLevels
    cases hc : s.conn.status <;> simp_all [levelsAre, connectPhase]
  | some p => cases p <;> simp_all [levelsAre, connectPhase, disconnectPhase]

/-- R26: where the phase fixes the levels and CONN agrees with what it reports, all the transport's invariants hold. -/
theorem TransportInv.of_phaseLevels {s : State} (ha : ConnAgrees s) (hl : phaseLevels s) : TransportInv s := by
  refine ⟨ha.message_iff, ha.named, ha.enabled_iff, ?_, ?_, ?_, ?_, ?_, ?_, ?_, ?_, ?_, ?_, ?_, ?_, ?_, ?_, ?_, ?_,
    ha.latest_conn, ha.latest_en⟩
  all_goals
    clear ha
    unfold phaseLevels at hl
    cases hb : s.busy with
    | none =>
      simp only [hb, idleLevels] at hl
      cases hc : s.conn.status <;> simp_all [levelsAre, connectPhase, disconnectPhase]
    | some p => cases p <;> simp_all [levelsAre, connectPhase, disconnectPhase]

theorem transportInv_iff {s : State} : TransportInv s ↔ ConnAgrees s ∧ phaseLevels s :=
  ⟨fun h => ⟨h.connAgrees, h.levels_of_phase⟩, fun h => .of_phaseLevels h.1 h.2⟩

-- ### What leaves the transport's registers alone

/-- All that the transport's invariants speak of is as before. -/
def sameRegisters (s t : State) : Prop :=
  sameLink s t ∧ t.readerActive = s.readerActive ∧ t.stateOut = s.stateOut ∧ t.enOut = s.enOut

theorem sameRegisters_trans {a b c : State} (h : sameRegisters a b) (h' : sameRegisters b c) : sameRegisters a c := by
  simp only [sameRegisters, sameLink] at *; simp [h, h']

theorem sameRegisters_receiveOne {s t : State} (h : s.receiveOne = some t) : sameRegisters s t := by
  obtain ⟨c, r, -, ⟨f, -, rfl⟩ | ⟨-, rfl⟩⟩ := State.receiveOne_some h <;> simp [sameRegisters, sameLink]

theorem sameRegisters_drain (n : Nat) (s : State) : sameRegisters s (State.drain n s) :=
  State.drain_induction (P := sameRegisters s) (fun _ _ h hs => sameRegisters_trans hs (sameRegisters_receiveOne h)) n s
    (by simp [sameRegisters, sameLink])

/-- R26 (c), R30, R137: CONN and EN and their histories as before. -/
theorem ConnAgrees.congr {s t : State} (h : ConnAgrees s) (hc : t.conn = s.conn) (he : t.en = s.en)
    (hso : t.stateOut = s.stateOut) (heo : t.enOut = s.enOut) : ConnAgrees t := by
  obtain ⟨hmsg, hnamed, henabled, hlc, hle⟩ := h
  constructor <;> simpa only [hc, he, hso, heo]

theorem TransportInv.congr {s t : State} (h : TransportInv s) (hs : sameRegisters s t) : TransportInv t := by
  obtain ⟨⟨hc, he, hp, hb, hcfg⟩, hr, hso, heo⟩ := hs
  refine .of_phaseLevels (h.connAgrees.congr hc he hso heo) ?_
  simpa only [phaseLevels, idleLevels, levelsAre, hc, he, hp, hb, hcfg, hr] using h.levels_of_phase

-- ### Emitting CONN

/-- R137: where CONN has just been emitted, it agrees with what it reports if its fields do. -/
theorem ConnAgrees.emitted {s : State} {earlier : List ConnectionState} (hso : s.stateOut = earlier ++ [s.conn])
    (hmsg : s.conn.errorMessage.isSome = true ↔ s.conn.status = .error)
    (hnamed : s.conn.status = .connecting ∨ s.conn.status = .connected →
      s.conn.portName.isSome = true ∧ s.conn.baudRate.isSome = true)
    (henabled : s.conn.moduleEnabled = true ↔ s.en = .asserted) (hle : s.en = s.enOut.getLastD .deasserted) :
    ConnAgrees s :=
  ⟨hmsg, hnamed, henabled, by simp [hso], hle⟩

/-- R26 (f): outside Connected the reader is not attached. -/
theorem TransportInv.reader_off {s : State} (h : TransportInv s) (hc : s.conn.status ≠ .connected) :
    s.readerActive = false := Bool.eq_false_iff.2 fun hr => hc (h.reader_iff.1 hr).1

/-- K1 (R131). -/
theorem TransportInv.beginConnect {s : State} (h : TransportInv s) (port : Text) (baud : Nat)
    (hc : s.conn.status = .disconnected ∨ s.conn.status = .error) : TransportInv (s.beginConnect port baud) := by
  refine .of_phaseLevels (.emitted rfl ?_ ?_ ?_ ?_) ?_
  · simp [State.beginConnect]
  · simp [State.beginConnect]
  · simp [State.beginConnect]
  · exact (State.driveEn_en _ s).trans (State.driveEn_latest h.latest_en).symm
  · have hr : s.readerActive = false := h.reader_off (by rcases hc with hc | hc <;> simp [hc])
    simp [phaseLevels, State.beginConnect, hr]

/-- D1 (R133). -/
theorem TransportInv.beginDisconnect {s : State} (h : TransportInv s) (hb : s.busy = none)
    (hc : s.conn.status = .connected) :
    TransportInv (State.publish { s.conn with moduleEnabled := false }
      { s.cancelHost.driveEn .deasserted with busy := some .d2 }) := by
  obtain ⟨ha, hl⟩ := transportInv_iff.1 h
  simp only [phaseLevels, hb, idleLevels, hc] at hl
  refine .of_phaseLevels (.emitted rfl ha.message_iff ha.named ?_ ?_) ?_
  · simp
  · simpa using (State.driveEn_latest (s := s.cancelHost) (by simpa using ha.latest_en)).symm
  · simpa [phaseLevels, levelsAre, hc] using hl.2

/-- R199: entering Error, with everything deasserted (R132) or by the policy (R136). -/
theorem TransportInv.enterError {s : State} {p : HwerrEnPolicy} (msg : Text) (h : TransportInv s)
    (hp : s.cfg.hwerrEnPolicy = .deassert → p = .deassert) : TransportInv { s.enterError p msg with busy := none } := by
  refine .of_phaseLevels (.emitted rfl ?_ ?_ ?_ ?_) ?_
  · simp [State.enterError]
  · simp
  · cases p <;> simp [State.enterError, errorModuleEnabled, errorLine, h.enabled_iff]
  · exact (State.driveEn_en _ s).trans (State.driveEn_latest h.latest_en).symm
  · simp only [phaseLevels, idleLevels, State.enterError_status]
    refine ⟨rfl, fun hd => ?_⟩
    obtain rfl := hp (by simpa using hd)
    simp [levelsAre, errorLine, State.enterError, errorPortOpen]

-- ### The steps of the operation in progress

/-- K2 to K5, F1 and D2 to D5 (R131 to R133): each step leads to the levels of the next phase. -/
theorem TransportInv.phaseStep {s : State} {p : Phase} (h : TransportInv s) (hb : s.busy = some p) :
    TransportInv (phaseStep p s) := by
  obtain ⟨ha, hl⟩ := transportInv_iff.1 h
  simp only [phaseLevels, hb] at hl
  rcases phaseStep_cases p s with
    ⟨q, msg, hq, heq⟩ | ⟨rfl, q, heq⟩ | ⟨rfl, q, heq⟩ | ⟨rfl, q, heq⟩ | ⟨rfl, q, heq⟩ | ⟨msg, rfl, heq⟩ | ⟨rfl, heq⟩
      | ⟨rfl, heq⟩ | ⟨rfl, heq⟩ | ⟨rfl, heq⟩ <;> rw [heq]
  · -- a failing answer: the levels stay those of the step that failed
    have hk : connectPhase s.busy = true := by cases p <;> simp_all [phaseQuestion, connectPhase]
    have hc : s.conn.status = .connecting := h.connecting_iff.2 hk
    refine .of_phaseLevels (ha.congr (by simp) (by simp) (by simp) (by simp)) ?_
    simpa [phaseLevels, hc, h.reader_off] using h.asserted_open hk
  · -- K2
    refine .of_phaseLevels (ha.congr (by simp) (by simp) (by simp) (by simp)) ?_
    simp [phaseLevels, levelsAre, hl]
  · -- K3
    refine .of_phaseLevels (.emitted rfl ha.message_iff ha.named ?_ ?_) ?_
    · simp
    · simpa using (State.driveEn_latest (s := (s.ask q).2) (by simpa using ha.latest_en)).symm
    · simp [phaseLevels, levelsAre, hl.1, hl.2.2]
  · -- K4
    refine .of_phaseLevels (ha.congr (by simp) (by simp) (by simp) (by simp)) ?_
    simpa [phaseLevels, levelsAre] using hl
  · -- K5
    obtain ⟨hc, he, hp, -⟩ := hl
    refine .of_phaseLevels (.emitted rfl ?_ ?_ ?_ ?_) ?_
    · simpa [hc] using ha.message_iff
    · simpa [hc] using ha.named
    · simpa using ha.enabled_iff
    · simpa using ha.latest_en
    · simp [phaseLevels, idleLevels, levelsAre, he, hp]
  · -- F1
    exact (h.enterError msg fun _ => rfl).congr (by simp [sameRegisters, sameLink, State.connectFailed])
  · -- D2
    exact .of_phaseLevels (ha.congr rfl rfl rfl rfl) hl
  · -- D3
    obtain ⟨hc, he, hp, -⟩ := hl
    exact .of_phaseLevels (ha.congr rfl rfl rfl rfl) ⟨hc, he, hp, rfl⟩
  · -- D4
    obtain ⟨hc, he, -, hr⟩ := hl
    exact .of_phaseLevels (ha.congr rfl rfl rfl rfl) ⟨hc, he, rfl, hr⟩
  · -- D5
    refine .of_phaseLevels (.emitted rfl ?_ ?_ ha.enabled_iff ha.latest_en) hl.2
    · simp [stepD5]
    · simp [stepD5]

/-- R232: the block's move keeps the transport's invariants. -/
theorem TransportInv.blockStep {s : State} (h : TransportInv s) : TransportInv (blockStep s) := by
  cases hb : s.busy with
  | none => rwa [blockStep_idle hb]
  | some p => rw [blockStep_of hb]; exact h.phaseStep hb

/-- R27: the transport's invariants hold after reset. -/
theorem transportInv_resetWith (c : Config) : TransportInv (State.resetWith c) :=
  .of_phaseLevels ⟨by simp [State.resetWith, ConnectionState.reset], by simp [State.resetWith, ConnectionState.reset],
    by simp [State.resetWith, ConnectionState.reset], rfl, rfl⟩ ⟨rfl, rfl, rfl⟩

/-- One instruction keeps the transport's invariants. -/
theorem TransportInv.exec {i : Instr} {s t : State} (h : TransportInv s) (he : exec i s = .next t) : TransportInv t := by
  cases exec_next he with
  | quiet rs n ht => subst ht; exact h.congr (by simp [sameRegisters, sameLink])
  | delivered f ht => subst ht; exact h.congr (by simp [sameRegisters, sameLink])
  | pushed chunk chunks s' hs ht =>
    obtain ⟨n, rfl, -⟩ := State.rxPush_ok ht
    subst hs
    exact h.congr (sameRegisters_trans (by simp [sameRegisters, sameLink]) (sameRegisters_drain n _))
  | connecting port baud _ hb hc ht => subst ht; exact h.beginConnect port baud hc
  | disconnecting _ hb hc ht => subst ht; exact h.beginDisconnect hb hc
  | sent bs n rs p b hb hc ht => subst ht; exact h.congr (by simp [sameRegisters, sameLink])
  | hwError msg _ hb hc ht =>
    subst ht
    exact (h.enterError msg id).congr (by simp [sameRegisters, sameLink, hb])
  | poweredOn _ hp ht => subst ht; exact (transportInv_resetWith s.cfg).congr ⟨⟨rfl, rfl, rfl, rfl, rfl⟩, rfl, rfl, rfl⟩
  | waiting v ht => subst ht; exact h.congr (by simp [sameRegisters, sameLink])

/-- Settles O51: CONN and the levels follow the phase (`transportInv_iff`), and every step leads from the levels of one phase to
those of the next or leaves the transport's registers alone. -/
theorem stepKeepsTransportInvariants : Obligations.StepKeepsTransportInvariants := by
  intro s t h hs
  cases step_next hs with
  | received hr => exact h.congr (sameRegisters_trans (by simp [sameRegisters, sameLink]) (sameRegisters_receiveOne hr))
  | requested i rest _ _ _ he => exact TransportInv.exec (h.congr (by simp [sameRegisters, sameLink])) he
  | blockMoved rest _ ht => subst ht; exact TransportInv.blockStep (h.congr (by simp [sameRegisters, sameLink]))
  | responseTimedOut rest _ ht => subst ht; exact h.congr (by simp [sameRegisters, sameLink])
  | verifyTimedOut rest index _ ht => subst ht; exact h.congr (by simp [sameRegisters, sameLink])
  | idle _ ht => subst ht; exact h

-- ### RXBUF

/-- R131 to R133: no step of a connect or disconnect touches RXBUF or the mark of a run. -/
theorem phaseStep_rxbuf_runBegun (p : Phase) (s : State) :
    (phaseStep p s).rxbuf = s.rxbuf ∧ (phaseStep p s).runBegun = s.runBegun := by
  rcases phaseStep_cases p s with
    ⟨q, msg, -, h⟩ | ⟨-, q, h⟩ | ⟨-, q, h⟩ | ⟨-, q, h⟩ | ⟨-, q, h⟩ | ⟨msg, -, h⟩ | ⟨-, h⟩ | ⟨-, h⟩ | ⟨-, h⟩ | ⟨-, h⟩
    <;> simp [h, stepD2, stepD3, stepD4, stepD5]

theorem blockStep_rxbuf_runBegun (s : State) :
    (blockStep s).rxbuf = s.rxbuf ∧ (blockStep s).runBegun = s.runBegun := by
  cases hb : s.busy with
  | none => rw [blockStep_idle hb]; exact ⟨rfl, rfl⟩
  | some p => rw [blockStep_of hb]; exact phaseStep_rxbuf_runBegun p s

/-- R26 (h): at reset RXBUF is empty. -/
theorem rxbufDrained_resetWith (c : Config) : RxbufDrained (State.resetWith c) :=
  extractFrame_no_header (List.not_mem_nil (a := header))

theorem RxbufDrained.congr {s t : State} (h : RxbufDrained s) (ht : t.rxbuf = s.rxbuf) : RxbufDrained t := by
  unfold RxbufDrained; rw [ht]; exact h

/-- R106: only a pushed chunk adds to RXBUF, and the loop takes all its candidates out. -/
theorem RxbufDrained.exec {i : Instr} {s t : State} (h : RxbufDrained s) (he : exec i s = .next t) : RxbufDrained t := by
  cases exec_next he with
  | quiet rs n ht => subst ht; exact h
  | delivered f ht => subst ht; exact h.congr (by simp)
  | pushed chunk chunks s' _ ht =>
    obtain ⟨n, -, hx⟩ := State.rxPush_ok ht
    exact hx
  | connecting port baud _ _ _ ht => subst ht; exact h.congr (by simp)
  | disconnecting _ _ _ ht => subst ht; exact h.congr (by simp)
  | sent bs n rs p b _ _ ht => subst ht; exact h.congr (by simp)
  | hwError msg _ _ _ ht => subst ht; exact h.congr (by simp)
  | poweredOn _ _ ht => subst ht; exact rxbufDrained_resetWith s.cfg
  | waiting v ht => subst ht; exact h

/-- Settles O52: with no candidate there a step is no turn of the receive loop, and nothing but a pushed chunk, which is drained,
adds to RXBUF. -/
theorem stepKeepsRxbufDrained : Obligations.StepKeepsRxbufDrained := by
  intro s t h hs
  cases step_next hs with
  | received hr =>
    have hn : s.beginRun.receiveOne = none := State.receiveOne_none.2 h
    rw [hn] at hr; cases hr
  | requested i rest _ _ _ he => exact RxbufDrained.exec (h.congr (by simp)) he
  | blockMoved rest _ ht => subst ht; exact h.congr (blockStep_rxbuf_runBegun _).1
  | responseTimedOut rest _ ht => subst ht; exact h.congr (by simp)
  | verifyTimedOut rest index _ ht => subst ht; exact h.congr (by simp)
  | idle _ ht => subst ht; exact h

-- ### Reset

theorem receiveOne_runBegun {s t : State} (h : s.receiveOne = some t) : t.runBegun = s.runBegun := by
  obtain ⟨c, r, -, ⟨f, -, rfl⟩ | ⟨-, rfl⟩⟩ := State.receiveOne_some h
  · simp
  · rfl

theorem drain_runBegun (n : Nat) (s : State) : (State.drain n s).runBegun = s.runBegun :=
  State.drain_induction (P := fun t => t.runBegun = s.runBegun) (fun _ _ h hs => (receiveOne_runBegun h).trans hs) n s rfl

/-- R220: a run that has begun stays begun. -/
theorem exec_runBegun {i : Instr} {s t : State} (hr : s.runBegun = true) (he : exec i s = .next t) : t.runBegun = true := by
  cases exec_next he with
  | quiet rs n ht => subst ht; exact hr
  | delivered f ht => subst ht; simpa using hr
  | pushed chunk chunks s' hs ht =>
    obtain ⟨n, rfl, -⟩ := State.rxPush_ok ht
    subst hs
    exact (drain_runBegun n _).trans hr
  | connecting port baud _ _ _ ht => subst ht; simpa using hr
  | disconnecting _ _ _ ht => subst ht; simpa using hr
  | sent bs n rs p b _ _ ht => subst ht; simpa using hr
  | hwError msg _ _ _ ht => subst ht; simpa using hr
  | poweredOn _ _ ht => subst ht; rfl
  | waiting v ht => subst ht; exact hr

theorem exec_reset_powerOn {s : State} (h : s.atPowerOn = true) : exec .reset s = .next s.powerOn := if_pos h

/-- U24. -/
theorem exec_reset_refused {s : State} (h : s.atPowerOn = false) : exec .reset s = .refused .midRunReset :=
  if_neg (by simp [h])

/-- R220: a request begins the run, `reset` too where it is admitted. -/
theorem exec_enterRun_runBegun {i : Instr} {s t : State} (he : exec i (s.enterRun i) = .next t) : t.runBegun = true := by
  by_cases hi : i = .reset
  · subst hi
    cases hp : s.atPowerOn with
    | true => rw [State.enterRun_reset, exec_reset_powerOn hp] at he; cases he; rfl
    | false => rw [State.enterRun_reset, exec_reset_refused hp] at he; cases he
  · rw [State.enterRun_other hi] at he
    exact exec_runBegun rfl he

/-- R220: after a step the run has begun, unless nothing could move. -/
theorem step_runBegun {s t : State} (h : step s = .next t) : t = s ∨ t.runBegun = true := by
  cases step_next h with
  | received hr => exact .inr (receiveOne_runBegun hr)
  | requested i rest _ _ _ he => exact .inr (exec_enterRun_runBegun he)
  | blockMoved rest _ ht => subst ht; exact .inr (blockStep_rxbuf_runBegun _).2
  | responseTimedOut rest _ ht => subst ht; exact .inr (by simp)
  | verifyTimedOut rest index _ ht => subst ht; exact .inr (by simp)
  | idle _ ht => exact .inl ht

theorem atPowerOn_resetWith (c : Config) : (State.resetWith c).atPowerOn = true := decide_eq_true (by simp [State.resetWith])

/-- R220: power-on is before every event of the run. -/
theorem atPowerOn_eq_false_of_runBegun {s : State} (h : s.runBegun = true) : s.atPowerOn = false := by
  simp [State.atPowerOn, h]

/-- Settles O42: the values by computation, the event by the test for power-on, which no state of a run passes. -/
theorem resetResult : Obligations.ResetResult := by
  refine ⟨fun c => ⟨rfl, rfl, rfl, rfl, rfl, rfl, rfl, rfl, rfl, rfl, rfl, rfl, atPowerOn_resetWith c⟩, fun s =>
    ⟨exec_reset_powerOn, atPowerOn_eq_false_of_runBegun, exec_reset_refused, fun t h => ?_⟩⟩
  exact (step_runBegun h).imp_right fun hr => exec_reset_refused (atPowerOn_eq_false_of_runBegun hr)

/-- Settles O50: the levels of a Disconnected link, an empty RXBUF and an empty slot. -/
theorem resetMeetsInvariants : Obligations.ResetMeetsInvariants := fun c =>
  { transport := transportInv_resetWith c
    drained := rxbufDrained_resetWith c
    host := ⟨by simp [State.resetWith], rfl⟩ }

-- ### The pure codec operations

/-- R10, R24: an instruction returns one result, a function of configuration and counter, and changes nothing but the
counter, by a number fixed by the configuration. -/
def IsPure (i : Instr) : Prop :=
  ∃ (r : Config → Nat → Result) (n : Config → Nat), ∀ s : State,
    exec i s = .next { s with results := s.results ++ [r s.cfg s.draws], draws := s.draws + n s.cfg }

theorem IsPure.of_result {i : Instr} (r : Config → Result) (h : ∀ s : State, exec i s = .next (s.giveResult (r s.cfg))) :
    IsPure i := ⟨fun c _ => r c, fun _ => 0, h⟩

/-- R88, R190: what a builder returns; the text of an ArgumentError is drawn. -/
def builtResult (b : Except ArgumentName (List Byte)) (draws : Nat) : Result :=
  match b with
  | .ok bs => .bytes bs
  | .error which => .argumentError which (Config.freeArgumentText draws)

/-- How many free values a builder draws. -/
def builtDraws (b : Except ArgumentName (List Byte)) : Nat :=
  match b with
  | .ok _ => 0
  | .error _ => 1

theorem giveBuilt_eq (b : Except ArgumentName (List Byte)) (s : State) :
    s.giveBuilt b = { s with results := s.results ++ [builtResult b s.draws], draws := s.draws + builtDraws b } := by
  cases b <;> rfl

theorem IsPure.of_built {i : Instr} (b : Config → Except ArgumentName (List Byte))
    (h : ∀ s : State, exec i s = .next (s.giveBuilt (b s.cfg))) : IsPure i :=
  ⟨fun c d => builtResult (b c) d, fun c => builtDraws (b c), fun s => by rw [h, giveBuilt_eq]⟩

/-- R80 (log 15): a checksum is computed, or drawn for too many bytes. -/
theorem pure_checksum (t c : Byte) (p : List Byte) : IsPure (.checksum t c p) := by
  by_cases hp : p.length ≤ maxParams
  · exact .of_result (fun _ => .byte (frameChecksum t c p)) fun s => if_pos hp
  · exact ⟨fun _ d => .byte (Config.freeChecksum d), fun _ => 1, fun s => if_neg hp⟩

theorem pure_parseFrame (p : List Byte) : IsPure (.parseFrame p) :=
  .of_result (fun _ => (parseFrame p).elim .notParseable .frame) fun s => by
    simp only [exec, execParseFrame]; cases parseFrame p <;> rfl

theorem pure_findFrameEnd (p : List Byte) : IsPure (.findFrameEnd p) :=
  .of_result (fun _ => (findFrameEnd p).elim .notFound .found) fun s => by
    simp only [exec, execFindFrameEnd]; cases findFrameEnd p <;> rfl

theorem pure_extractFrame (p : List Byte) : IsPure (.extractFrame p) :=
  .of_result (fun _ => (extractFrame p).elim .incomplete fun x => .extracted x.1 x.2) fun s => by
    simp only [exec, execExtractFrame]; cases extractFrame p <;> rfl

theorem pure_parseTagPollData (f : Frame) : IsPure (.parseTagPollData f) :=
  .of_result (fun c => (parseTagPoll c f).elim .noData .tagPoll) fun s => by
    simp only [exec, execParseTagPollData]; cases parseTagPoll s.cfg f <;> rfl

/-- Settles O58: each operation gives a computed result, or what a builder built. -/
theorem codecOperationsArePure : Obligations.CodecOperationsArePure := by
  intro t c command code ft p password epc payload count value f d i hi
  show IsPure i
  simp only [List.mem_cons, List.not_mem_nil, or_false] at hi
  rcases hi with rfl | rfl | rfl | rfl | rfl | rfl | rfl | rfl | rfl | rfl | rfl | rfl | rfl | rfl | rfl | rfl | rfl | rfl
    | rfl | rfl
  · exact pure_checksum t c p
  · exact .of_built (fun _ => encodeFrame ft c p) fun _ => rfl
  · exact .of_built (fun _ => buildCommand command p) fun _ => rfl
  · exact .of_built buildSinglePoll fun _ => rfl
  · exact .of_built (fun g => buildStartPoll g count) fun _ => rfl
  · exact .of_built buildStopPoll fun _ => rfl
  · exact .of_built (fun g => buildWriteEpc g password epc) fun _ => rfl
  · exact .of_built (fun g => buildLockTag g password payload) fun _ => rfl
  · exact .of_built (fun g => buildSetRfPower g value) fun _ => rfl
  · exact .of_built buildGetRfPower fun _ => rfl
  · exact pure_parseFrame p
  · exact .of_result (fun _ => .flag f.checksumValid) fun _ => rfl
  · exact .of_result (fun _ => .flag (isSuccess f)) fun _ => rfl
  · exact .of_result (fun _ => .optByte (responseCode f)) fun _ => rfl
  · exact pure_findFrameEnd p
  · exact pure_extractFrame p
  · exact pure_parseTagPollData f
  · exact .of_result (fun _ => .text (epcHex d)) fun _ => rfl
  · exact .of_result (fun g => .flag (isReaderTag g d)) fun _ => rfl
  · exact .of_result (fun g => .message (responseMessage g code)) fun _ => rfl

end Sys2Proof.Safety
end

section
/-! PROOFS. The family Memory: the streams only grow, and CONN changes only by being emitted (R30, R39, R40, R137). -/

namespace Sys2Proof.Safety

open Sys2Proof.Machine

/-- R30, R137: `t` may come after `s`. The streams of `t` go on from those of `s`, the configuration is the same, and CONN is the
last value emitted in between, or as before where none was. -/
def continues (s t : State) : Prop :=
  streamsGrow s t ∧ t.cfg = s.cfg ∧ ∃ emitted, t.stateOut = s.stateOut ++ emitted ∧ t.conn = emitted.getLastD s.conn

/-- R137: where nothing is emitted CONN is as before. -/
theorem continues_of_same_conn {s t : State} (hg : streamsGrow s t) (hcfg : t.cfg = s.cfg) (hso : t.stateOut = s.stateOut)
    (hc : t.conn = s.conn) : continues s t := ⟨hg, hcfg, [], by simp [hso], hc⟩

theorem continues_refl (s : State) : continues s s := continues_of_same_conn (by simp [streamsGrow]) rfl rfl rfl

theorem streamsGrow_trans {a b c : State} (h : streamsGrow a b) (h' : streamsGrow b c) : streamsGrow a c := by
  obtain ⟨htx, hbyte, hframe, hstate, hen, hasked, hresults, hpoll⟩ := h
  obtain ⟨htx', hbyte', hframe', hstate', hen', hasked', hresults', hpoll'⟩ := h'
  exact ⟨htx.trans htx', hbyte.trans hbyte', hframe.trans hframe', hstate.trans hstate', hen.trans hen',
    hasked.trans hasked', hresults.trans hresults', hpoll.trans hpoll'⟩

theorem continues_trans {a b c : State} (h : continues a b) (h' : continues b c) : continues a c := by
  obtain ⟨hg, hcfg, l, hso, hc⟩ := h
  obtain ⟨hg', hcfg', l', hso', hc'⟩ := h'
  refine ⟨streamsGrow_trans hg hg', hcfg'.trans hcfg, l ++ l', by rw [hso', hso, List.append_assoc], ?_⟩
  simp [hc', hc, List.getLast?_append]

/-- R137: a CONN that differs has been emitted, and nothing after it. -/
theorem emitted_of_conn_ne {s t : State} (h : continues s t) (hne : t.conn ≠ s.conn) :
    t.stateOut ≠ s.stateOut ∧ t.stateOut.getLast? = some t.conn := by
  obtain ⟨-, -, l, hso, hc⟩ := h
  obtain rfl | ⟨earlier, c, rfl⟩ := l.eq_nil_or_concat'
  · exact absurd hc hne
  · simp [hso, hc]

-- ### The operations on the state

theorem continues_giveResult (r : Result) (s : State) : continues s (s.giveResult r) :=
  continues_of_same_conn (by simp [streamsGrow, State.giveResult]) rfl rfl rfl

/-- R137. -/
theorem continues_publish (c : ConnectionState) (s : State) : continues s (s.publish c) :=
  ⟨by simp [streamsGrow, State.publish], rfl, [c], rfl, rfl⟩

theorem continues_driveEn (l : Line) (s : State) : continues s (s.driveEn l) := by
  unfold State.driveEn
  split
  · exact continues_refl s
  · exact continues_of_same_conn (by simp [streamsGrow]) rfl rfl rfl

theorem continues_ask (q : EnvQuestion) (s : State) : continues s (s.ask q).2 :=
  continues_of_same_conn (by simp [streamsGrow]) (by simp) (by simp) (by simp)

theorem continues_enterRun (i : Instr) (s : State) (rest : List Turn) :
    continues s (State.enterRun i { s with agenda := rest }) :=
  continues_of_same_conn (by simp [streamsGrow]) (by simp) (by simp) (by simp)

theorem continues_beginConnect (port : Text) (baud : Nat) (s : State) : continues s (s.beginConnect port baud) :=
  continues_trans (continues_driveEn .deasserted s) (continues_publish _ { s.driveEn .deasserted with busy := some .k2 })

/-- R199. -/
theorem continues_enterError (policy : HwerrEnPolicy) (msg : Text) (s : State) : continues s (s.enterError policy msg) :=
  continues_trans (continues_driveEn (errorLine policy s) s)
    (continues_publish _ { s.driveEn (errorLine policy s) with
      portOpen := errorPortOpen policy s, readerActive := false, draws := s.draws + 3 })

/-- R132, step F1. -/
theorem continues_connectFailed (msg : Text) (s : State) : continues s (s.connectFailed msg) :=
  continues_trans (continues_enterError .deassert msg s) (continues_giveResult (.transport .connect false) _)

-- ### The host's operations

theorem continues_cancelHost (s : State) : continues s s.cancelHost := by
  unfold State.cancelHost
  split
  · exact continues_giveResult _ s
  · exact continues_refl s

theorem continues_responseTimeout (s : State) : continues s s.responseTimeout := by
  unfold State.responseTimeout
  split
  · exact continues_giveResult _ s
  · exact continues_refl s

theorem continues_verifyTimeout (index : Nat) (s : State) : continues s (s.verifyTimeout index) := by
  unfold State.verifyTimeout
  split
  · exact continues_giveResult _ s
  · exact continues_refl s

/-- R161. -/
theorem continues_dispatchResponse (f : Frame) (s : State) : continues s (s.dispatchResponse f) := by
  unfold State.dispatchResponse
  split
  · split
    · exact continues_giveResult _ s
    · exact continues_refl s
  · exact continues_refl s

/-- R162. -/
theorem continues_dispatchNotice (f : Frame) (s : State) : continues s (s.dispatchNotice f) := by
  unfold State.dispatchNotice
  split
  · split
    · exact continues_of_same_conn (by simp [streamsGrow, State.emitPoll]) rfl rfl rfl
    · exact continues_refl s
  · exact continues_refl s

/-- R106, R111. -/
theorem continues_deliver (f : Frame) (s : State) : continues s (s.deliver f) := by
  refine continues_trans (b := { s with frameOut := s.frameOut ++ [f] })
    (continues_of_same_conn (by simp [streamsGrow]) rfl rfl rfl) ?_
  unfold State.deliver State.dispatchFrame
  split
  · exact continues_refl _
  · exact continues_dispatchResponse f _
  · exact continues_dispatchNotice f _

-- ### The receive path

theorem continues_receiveOne {s t : State} (h : s.receiveOne = some t) : continues s t := by
  obtain ⟨c, rest, -, ⟨f, -, rfl⟩ | ⟨-, rfl⟩⟩ := State.receiveOne_some h
  · exact continues_deliver f { s with rxbuf := rest }
  · exact continues_refl s

theorem continues_drain (n : Nat) (s : State) : continues s (State.drain n s) :=
  State.drain_induction (P := continues s) (fun _ _ h hs => continues_trans hs (continues_receiveOne h)) n s (continues_refl s)

theorem continues_rxPush {chunk : List Byte} {s t : State} (h : s.rxPush chunk = .ok t) : continues s t := by
  obtain ⟨n, rfl, -⟩ := State.rxPush_ok h
  exact continues_drain n { s with rxbuf := s.rxbuf ++ chunk }

-- ### Steps and instructions

/-- R131 to R133: each step of a connect or disconnect; K3, K5, F1 and D5 emit CONN. -/
theorem continues_phaseStep (p : Phase) (s : State) : continues s (phaseStep p s) := by
  rcases phaseStep_cases p s with
    ⟨q, msg, -, h⟩ | ⟨-, q, h⟩ | ⟨-, q, h⟩ | ⟨-, q, h⟩ | ⟨-, q, h⟩ | ⟨msg, -, h⟩ | ⟨-, h⟩ | ⟨-, h⟩ | ⟨-, h⟩ | ⟨-, h⟩
    <;> rw [h]
  · -- a failing answer
    exact continues_ask q s
  · -- K2
    exact continues_ask q s
  · -- K3
    exact continues_trans (continues_trans (continues_ask q s) (continues_driveEn .asserted _)) (continues_publish _ _)
  · -- K4
    exact continues_ask q s
  · -- K5
    exact continues_trans (continues_trans (continues_ask q s) (continues_publish _ _)) (continues_giveResult _ _)
  · -- F1
    exact continues_connectFailed msg s
  · -- D2
    exact continues_refl s
  · -- D3
    exact continues_refl s
  · -- D4
    exact continues_refl s
  · -- D5
    exact continues_trans (continues_publish _ s) (continues_giveResult _ _)

theorem continues_blockStep (s : State) : continues s (blockStep s) := by
  cases hb : s.busy with
  | none => rw [blockStep_idle hb]; exact continues_refl s
  | some p => rw [blockStep_of hb]; exact continues_phaseStep p s

/-- R27, R220: at power-on there is nothing to go on from, and CONN has its reset value already. -/
theorem continues_powerOn {s : State} (h : s.atPowerOn = true) : continues s s.powerOn := by
  simp only [State.atPowerOn, decide_eq_true_eq] at h
  obtain ⟨-, -, hc, -, -, -, -, htx, hbyte, hframe, hstate, hen, hasked, hresults, -, -, hpoll, -⟩ := h
  exact continues_of_same_conn (by simp [streamsGrow, htx, hbyte, hframe, hstate, hen, hasked, hresults, hpoll]) rfl
    hstate.symm hc.symm

theorem continues_exec {i : Instr} {s t : State} (he : exec i s = .next t) : continues s t := by
  cases exec_next he with
  | quiet rs n ht => subst ht; exact continues_of_same_conn (by simp [streamsGrow]) rfl rfl rfl
  | delivered f ht => subst ht; exact continues_deliver f s
  | pushed chunk chunks s' hs ht =>
    subst hs
    exact continues_trans (b := { s with byteOut := s.byteOut ++ chunks })
      (continues_of_same_conn (by simp [streamsGrow]) rfl rfl rfl) (continues_rxPush ht)
  | connecting port baud _ _ _ ht => subst ht; exact continues_beginConnect port baud s
  | disconnecting _ _ _ ht =>
    subst ht
    exact continues_trans (continues_trans (continues_cancelHost s) (continues_driveEn .deasserted _)) (continues_publish _ _)
  | sent bs n rs p b _ _ ht =>
    subst ht
    exact continues_of_same_conn (by simp [streamsGrow, State.txEmit]) (by simp) (by simp) (by simp)
  | hwError msg _ _ _ ht =>
    subst ht; exact continues_trans (continues_enterError s.cfg.hwerrEnPolicy msg s) (continues_cancelHost _)
  | poweredOn _ hp ht => subst ht; exact continues_powerOn hp
  | waiting v ht => subst ht; exact continues_refl s

theorem continues_step {s t : State} (h : step s = .next t) : continues s t := by
  cases step_next h with
  | received hr => exact continues_receiveOne (s := s.beginRun) hr
  | requested i rest _ _ _ he => exact continues_trans (continues_enterRun i s rest) (continues_exec he)
  | blockMoved rest _ ht => subst ht; exact continues_blockStep (State.beginRun { s with agenda := rest })
  | responseTimedOut rest _ ht => subst ht; exact continues_responseTimeout (State.beginRun { s with agenda := rest })
  | verifyTimedOut rest index _ ht =>
    subst ht; exact continues_verifyTimeout index (State.beginRun { s with agenda := rest })
  | idle _ ht => rw [ht]; exact continues_refl s

/-- Settles O57: every operation of a step continues the state it starts from (`continues_step`), and CONN is then the last value
emitted. -/
theorem streamsOnlyGrow : Obligations.StreamsOnlyGrow := by
  intro s t h
  obtain ⟨hgrow, hcfg, -⟩ := continues_step h
  exact ⟨hgrow, hcfg, emitted_of_conn_ne (continues_step h)⟩

end Sys2Proof.Safety
end

section
/-! PROOFS. The family Encoding: decoder and encoder are inverse to each other (R50, R55, R62 to R67), a Notice frame is emitted
and dispatched (R162, R167), and the builders expand to `build_command` (R69). -/

namespace Sys2Proof.Safety

open Sys2Proof.Machine

-- ### The payload layouts read back

/-- R62, row "write EPC": the layout has 21 bytes. -/
theorem length_writeEpcLayout {password epc : List Byte} (bank : Byte) (address words : BitVec 16)
    (hp : password.length = 4) (he : epc.length = 12) :
    (writeEpcLayout password bank address words epc).length = 21 := by
  simp [writeEpcLayout, be16, hp, he]

/-- R62, row "lock tag": password and payload have 7 bytes. -/
theorem length_lockTagLayout {password payload : List Byte} (hp : password.length = 4) (hl : payload.length = 3) :
    (password ++ payload).length = 7 := by rw [List.length_append, hp, hl]

/-- R63: the layout has 15 bytes before the later ones. -/
theorem length_tagPollLayout (rssi : Byte) (pc : BitVec 16) {epc : List Byte} (later : List Byte)
    (he : epc.length = 12) : (tagPollLayout rssi pc epc later).length = 15 + later.length := by
  simp only [tagPollLayout, be16, List.length_append, List.length_cons, List.length_nil, he]

/-- R62, R67: a "write EPC" payload is read back field by field. -/
theorem classifyCommand_writeEpcLayout {c : Config} {password epc : List Byte} (bank : Byte) (address words : BitVec 16)
    (k : Byte) (hp : password.length = 4) (he : epc.length = 12)
    (hr : commandRow c c.cmdWriteEpc 21 = some .writeEpc) :
    classifyCommand c c.cmdWriteEpc (writeEpcLayout password bank address words epc) k
      = .cmdWriteEpc password bank address words epc k := by
  simp only [classifyCommand, length_writeEpcLayout bank address words hp he, hr]
  match password, hp with
  | [_, _, _, _], _ => simp [writeEpcLayout, be16, ofBe16_be16]

/-- R62, R67: so is a "lock tag" payload. -/
theorem classifyCommand_lockTag {c : Config} {password payload : List Byte} (k : Byte) (hp : password.length = 4)
    (hl : payload.length = 3) (hr : commandRow c c.cmdLockTag 7 = some .lockTag) :
    classifyCommand c c.cmdLockTag (password ++ payload) k = .cmdLockTag password payload k := by
  simp only [classifyCommand, length_lockTagLayout hp hl, hr, List.take_left' hp, List.drop_left' hp]

/-- R63, R67: so is a tag observation, whatever bytes come later. -/
theorem classifyNotice_tagPollLayout (c : Config) (rssi : Byte) (pc : BitVec 16) {epc : List Byte} (later : List Byte)
    (k : Byte) (he : epc.length = 12) :
    classifyNotice c c.cmdPollNotice (tagPollLayout rssi pc epc later) k = .noticeTagPoll rssi pc epc later k := by
  have hlen := length_tagPollLayout rssi pc later he
  unfold classifyNotice
  rw [if_pos ⟨rfl, by omega⟩]
  simp [tagPollLayout, be16, ofBe16_be16, List.take_left' he, List.drop_left' he]

-- ### Decode of encode

/-- R56: the shape of the well-formedness of a row with free parameters. -/
theorem paramsFit_and {p : List Byte} {q : Prop} [Decidable q] :
    (paramsFit p && decide q) = true ↔ p.length ≤ maxParams ∧ q := by
  simp only [paramsFit, Bool.and_eq_true, decide_eq_true_eq]

/-- R50, R67: the frame of a well-formed row fits the length field, and the row is the one the frame is classified into. -/
theorem classify_of_wireOf {c : Config} {i : Instr} {w : Wire} (hi : wellFormed c i = true) (hw : wireOf c i = some w) :
    w.parameters.length ≤ maxParams ∧ classify c w = i := by
  cases i with
  | frameCommand command p k =>
    cases hw
    obtain ⟨hp, hrow⟩ := paramsFit_and.1 hi
    exact ⟨hp, by simp only [classify, classifyCommand, hrow]⟩
  | frameResponse command p k =>
    cases hw
    obtain ⟨hp, hcode⟩ := paramsFit_and.1 hi
    refine ⟨hp, ?_⟩
    cases p with
    | nil => rfl
    | cons code later => exact if_neg fun h => hcode (congrArg some h)
  | frameNotice command p k =>
    cases hw
    obtain ⟨hp, hrow⟩ := paramsFit_and.1 hi
    exact ⟨hp, if_neg fun h => hrow.elim (· h.1) (Nat.not_lt.2 h.2)⟩
  | cmdSinglePoll k =>
    cases hw
    have hrow := of_decide_eq_true hi
    exact ⟨Nat.zero_le _, by simp only [classify, classifyCommand, List.length_nil, hrow]⟩
  | cmdStartPoll p k =>
    cases hw
    obtain ⟨hp, hrow⟩ := paramsFit_and.1 hi
    exact ⟨hp, by simp only [classify, classifyCommand, hrow]⟩
  | cmdStopPoll k =>
    cases hw
    have hrow := of_decide_eq_true hi
    exact ⟨Nat.zero_le _, by simp only [classify, classifyCommand, List.length_nil, hrow]⟩
  | cmdWriteEpc password bank address words epc k =>
    cases hw
    simp only [wellFormed, Bool.and_eq_true, decide_eq_true_eq] at hi
    obtain ⟨⟨hp, he⟩, hrow⟩ := hi
    exact ⟨(length_writeEpcLayout bank address words hp he).trans_le (by decide),
      classifyCommand_writeEpcLayout bank address words k hp he hrow⟩
  | cmdLockTag password payload k =>
    cases hw
    simp only [wellFormed, Bool.and_eq_true, decide_eq_true_eq] at hi
    obtain ⟨⟨hp, hl⟩, hrow⟩ := hi
    exact ⟨(length_lockTagLayout hp hl).trans_le (by decide), classifyCommand_lockTag k hp hl hrow⟩
  | cmdSetRfPower p k =>
    cases hw
    obtain ⟨hp, hrow⟩ := paramsFit_and.1 hi
    exact ⟨hp, by simp only [classify, classifyCommand, hrow]⟩
  | cmdGetRfPower k =>
    cases hw
    have hrow := of_decide_eq_true hi
    exact ⟨Nat.zero_le _, by simp only [classify, classifyCommand, List.length_nil, hrow]⟩
  | noticeTagPoll rssi pc epc later k =>
    cases hw
    simp only [wellFormed, Bool.and_eq_true, decide_eq_true_eq] at hi
    obtain ⟨he, hp⟩ := hi
    exact ⟨(length_tagPollLayout rssi pc later he).trans_le hp, classifyNotice_tagPollLayout c rssi pc later k he⟩
  | responseSuccess command later k =>
    cases hw
    have hp := of_decide_eq_true hi
    exact ⟨by simp only [List.length_cons]; omega, by simp only [classify, classifyResponse, if_true]⟩
  | _ => cases hw

/-- Settles O2: reading a row's bytes gives its frame (`readWire_wireBytes`), which is classified into that row
(`classify_of_wireOf`). -/
theorem decodeOfEncode : Obligations.DecodeOfEncode := by
  intro c i rest hi hf
  obtain ⟨w, hw⟩ := Option.isSome_iff_exists.1 hf
  obtain ⟨hl, hc⟩ := classify_of_wireOf hi hw
  refine ⟨wireBytes w, by simp only [encode, hw, Option.map_some], ?_⟩
  simp only [decode, readWire_wireBytes rest hl, hc]

-- ### Encode of decode

/-- R62, R67: the row a Command frame is classified into is well formed: its fields have their lengths, and it is the row of its
own code and length. -/
theorem wellFormed_classifyCommand (c : Config) (command : Byte) {p : List Byte} (k : Byte) (hp : p.length ≤ maxParams) :
    wellFormed c (classifyCommand c command p k) = true := by
  unfold classifyCommand
  split
  next hrow => obtain ⟨rfl, hl⟩ := commandRow_spec hrow; exact decide_eq_true (hl ▸ hrow)
  next hrow => obtain ⟨rfl, -⟩ := commandRow_spec hrow; exact paramsFit_and.2 ⟨hp, hrow⟩
  next hrow => obtain ⟨rfl, hl⟩ := commandRow_spec hrow; exact decide_eq_true (hl ▸ hrow)
  next hrow =>
    obtain ⟨rfl, hl⟩ := commandRow_spec hrow
    rw [hl] at hrow
    simp [wellFormed, hl, hrow, passwordLen, epcLen]
  next hrow =>
    obtain ⟨rfl, hl⟩ := commandRow_spec hrow
    rw [hl] at hrow
    simp [wellFormed, hl, hrow, passwordLen, lockPayloadLen]
  next hrow => obtain ⟨rfl, -⟩ := commandRow_spec hrow; exact paramsFit_and.2 ⟨hp, hrow⟩
  next hrow => obtain ⟨rfl, hl⟩ := commandRow_spec hrow; exact decide_eq_true (hl ▸ hrow)
  next hrow => exact paramsFit_and.2 ⟨hp, hrow⟩

/-- R64, R67: so is the row of a Response frame. -/
theorem wellFormed_classifyResponse (c : Config) (command : Byte) {p : List Byte} (k : Byte) (hp : p.length ≤ maxParams) :
    wellFormed c (classifyResponse command p k) = true := by
  cases p with
  | nil => rfl
  | cons code later =>
    simp only [classifyResponse]
    split
    next => exact decide_eq_true (by simpa only [List.length_cons, Nat.add_comm] using hp)
    next hcode => exact paramsFit_and.2 ⟨hp, by simpa using hcode⟩

/-- R63, R67: so is the row of a Notice frame. -/
theorem wellFormed_classifyNotice (c : Config) (command : Byte) {p : List Byte} (k : Byte) (hp : p.length ≤ maxParams) :
    wellFormed c (classifyNotice c command p k) = true := by
  unfold classifyNotice
  split
  next htag =>
    obtain ⟨-, h15⟩ := htag
    simp only [wellFormed, List.length_take, List.length_drop, epcLen, Bool.and_eq_true, decide_eq_true_eq]
    omega
  next hno =>
    have hrow : command ≠ c.cmdPollNotice ∨ p.length < 15 := by
      rw [← Nat.not_le]; exact not_and_or.1 hno
    exact paramsFit_and.2 ⟨hp, hrow⟩

/-- R67: the row a frame is classified into is well formed. -/
theorem wellFormed_classify (c : Config) {w : Wire} (hl : w.parameters.length ≤ maxParams) :
    wellFormed c (classify c w) = true := by
  obtain ⟨t, command, p, k⟩ := w
  cases t with
  | command => exact wellFormed_classifyCommand c command k hl
  | response => exact wellFormed_classifyResponse c command k hl
  | notice => exact wellFormed_classifyNotice c command k hl

/-- R67: all that decoding can give: the row of a frame that stands at the front. -/
theorem decode_ok {c : Config} {b : List Byte} {i : Instr} {rest : List Byte} (h : decode c b = .ok (i, rest)) :
    ∃ w, readWire b = .ok (w, rest) ∧ i = classify c w := by
  unfold decode at h
  split at h
  next w tl hw => cases h; exact ⟨w, hw, rfl⟩
  next => cases h

/-- Settles O3: the bytes read are those of the frame (`readWire_ok`), and the row has that frame (`wireOf_classify`). -/
theorem encodeOfDecode : Obligations.EncodeOfDecode := by
  intro c b i rest h
  obtain ⟨w, hw, rfl⟩ := decode_ok h
  obtain ⟨hb, hl⟩ := readWire_ok hw
  exact ⟨wellFormed_classify c hl, wireBytes w, by simp only [encode, wireOf_classify, Option.map_some], hb⟩

-- ### Notice frames

/-- R106, R111: a well-formed frame row delivers the Frame that its bytes parse to. -/
theorem exec_frameRow {i : Instr} {s : State} {w : Wire} (hi : wellFormed s.cfg i = true) (hw : wireOf s.cfg i = some w) :
    encode s.cfg i = some (wireBytes w) ∧ parseFrame (wireBytes w) = some (frameOfWire w)
      ∧ exec i s = .next (s.deliver (frameOfWire w)) :=
  ⟨by simp only [encode, hw, Option.map_some], parseFrame_wireBytes (classify_of_wireOf hi hw).1, exec_of_wireOf hw⟩

/-- R63, R107: the tag observation of a Frame with the tag layout. -/
theorem parseTagPoll_tagPollLayout {c : Config} {f : Frame} (rssi : Byte) (pc : BitVec 16) {epc : List Byte}
    (later : List Byte) (he : epc.length = 12) (ht : f.frameType = .notice) (hc : f.command = c.cmdPollNotice)
    (hp : f.parameters = tagPollLayout rssi pc epc later) :
    parseTagPoll c f = some { rssi := rssi, pc := pc, epcBytes := epc } := by
  have hlen := length_tagPollLayout rssi pc later he
  unfold parseTagPoll
  rw [if_neg (not_not.2 ht), if_neg (not_not.2 hc), hp, if_neg (by omega), if_neg (by omega)]
  simp [tagPollLayout, be16, ofBe16_be16, List.take_left' he]

/-- R107: any other Notice is none. -/
theorem parseTagPoll_none {c : Config} {f : Frame} (h : f.command ≠ c.cmdPollNotice ∨ f.parameters.length < 15) :
    parseTagPoll c f = none := by
  rcases h with hc | hl
  · simp only [parseTagPoll, if_pos hc, ite_self]
  · simp only [parseTagPoll, if_pos hl, ite_self]

/-- R162: a tag observation that is delivered while polling goes to POLL_OUT. -/
theorem deliver_tagPoll_polling {s : State} {f : Frame} {d : TagPollData} (ht : f.frameType = .notice)
    (hd : parseTagPoll s.cfg f = some d) (hp : s.polling = true) :
    s.deliver f = State.emitPoll d { s with frameOut := s.frameOut ++ [f] } := by
  simp only [State.deliver, State.dispatchFrame, ht, State.dispatchNotice, hd, hp, if_true]

/-- R162: a Notice that is delivered while not polling is only emitted. -/
theorem deliver_notice_idle {s : State} {f : Frame} (ht : f.frameType = .notice) (hp : s.polling = false) :
    s.deliver f = { s with frameOut := s.frameOut ++ [f] } := by
  simp only [State.deliver, State.dispatchFrame, ht, State.dispatchNotice, hp]
  split <;> rfl

/-- R162: a Notice that is no tag observation is only emitted. -/
theorem deliver_notice_other {s : State} {f : Frame} (ht : f.frameType = .notice) (hd : parseTagPoll s.cfg f = none) :
    s.deliver f = { s with frameOut := s.frameOut ++ [f] } := by
  simp only [State.deliver, State.dispatchFrame, ht, State.dispatchNotice, hd]

/-- Settles O31: the row's frame is delivered (`exec_frameRow`), and what the host does with it depends on the tag observation in
it and on POLLING. -/
theorem noticeFramesDispatched : Obligations.NoticeFramesDispatched := by
  constructor
  · intro s rssi k pc epc later hi
    obtain ⟨hbs, hf, hx⟩ := exec_frameRow hi rfl
    obtain ⟨he, -⟩ := Bool.and_eq_true_iff.1 hi
    refine ⟨_, _, hbs, hf, fun hp => ?_, fun hp => ?_⟩
    · rw [hx, deliver_notice_idle rfl hp]
    · rw [hx, deliver_tagPoll_polling rfl
        (parseTagPoll_tagPollLayout rssi pc later (of_decide_eq_true he) rfl rfl rfl) hp]
      rfl
  · intro s command k p hi
    obtain ⟨hbs, hf, hx⟩ := exec_frameRow hi rfl
    obtain ⟨-, hrow⟩ := paramsFit_and.1 hi
    exact ⟨_, _, hbs, hf, rfl, by rw [hx, deliver_notice_other rfl (parseTagPoll_none hrow)]⟩

-- ### The words of the spec

/-- Settles O1: the decoder runs on each of the ten words. -/
theorem specWordsDecode : Obligations.SpecWordsDecode := by
  unfold Obligations.SpecWordsDecode
  decide

-- ### The builders

/-- R69: an instruction that returns what `build_command` builds does what it does. -/
theorem exec_eq_buildCommand {i : Instr} {s : State} {b : Except ArgumentName (List Byte)} {command : Byte} {p : List Byte}
    (hi : exec i s = .next (s.giveBuilt b)) (hb : b = buildCommand command p) :
    exec i s = exec (.buildCommand command p) s := by rw [hi, hb]; rfl

/-- R88, R190: an instruction whose builder reports an argument returns an ArgumentError for it. -/
theorem exec_argumentError {i : Instr} {s : State} {b : Except ArgumentName (List Byte)} {which : ArgumentName}
    (hi : exec i s = .next (s.giveBuilt b)) (hb : b = .error which) :
    ∃ text, exec i s = .next { s with
      results := s.results ++ [.argumentError which text], draws := s.draws + 1 } :=
  ⟨_, by rw [hi, hb]; rfl⟩

/-- R85, R88: arguments that are not valid are reported. -/
theorem buildWriteEpc_error (c : Config) {password epc : List Byte} (h : password.length ≠ 4 ∨ epc.length ≠ 12) :
    ∃ which, buildWriteEpc c password epc = .error which := by
  by_cases hw : password.length = 4
  · exact ⟨_, buildWriteEpc_epc hw (h.resolve_left (not_not.2 hw))⟩
  · exact ⟨_, buildWriteEpc_password hw⟩

/-- R88, R90: likewise for "lock tag". -/
theorem buildLockTag_error (c : Config) {password payload : List Byte} (h : password.length ≠ 4 ∨ payload.length ≠ 3) :
    ∃ which, buildLockTag c password payload = .error which := by
  by_cases hw : password.length = 4
  · exact ⟨_, buildLockTag_payload hw (h.resolve_left (not_not.2 hw))⟩
  · exact ⟨_, buildLockTag_password hw⟩

/-- Settles O7: each builder's checks pass and leave one `build_command`, or one of them reports its argument. -/
theorem buildersExpand : Obligations.BuildersExpand := by
  intro s count value password epc payload
  refine ⟨rfl, fun hn => ?_, rfl, fun hw he => ?_, fun hw hl => ?_, fun hv => ?_, rfl, ?_⟩
  · exact exec_eq_buildCommand rfl (buildStartPoll_eq hn)
  · exact exec_eq_buildCommand rfl ((buildWriteEpc_ok hw he).trans (buildCommand_ok (by simp [hw, he])).symm)
  · exact exec_eq_buildCommand rfl ((buildLockTag_ok hw hl).trans (buildCommand_ok (by simp [hw, hl])).symm)
  · exact exec_eq_buildCommand rfl (buildSetRfPower_eq hv)
  · rintro i (⟨rfl, hn⟩ | ⟨rfl, h⟩ | ⟨rfl, h⟩ | ⟨rfl, hv⟩)
    · exact ⟨_, exec_argumentError rfl (buildStartPoll_error hn)⟩
    · obtain ⟨which, hb⟩ := buildWriteEpc_error s.cfg h; exact ⟨which, exec_argumentError rfl hb⟩
    · obtain ⟨which, hb⟩ := buildLockTag_error s.cfg h; exact ⟨which, exec_argumentError rfl hb⟩
    · exact ⟨_, exec_argumentError rfl (buildSetRfPower_error hv)⟩

end Sys2Proof.Safety
end

section
/-! PROOFS. The family Encode: what the checksum, the two generic encoders and the seven builders return, and which argument
they report (R80 to R90, R191). -/

namespace Sys2Proof.Safety

open Sys2Proof.Machine

-- ### The checksum

/-- R57, R80: the checksum as one sum over the naturals. -/
theorem frameChecksum_eq (t c : Byte) (p : List Byte) :
    frameChecksum t c p = BitVec.ofNat 8
      ((t.toNat + c.toNat + p.length / 256 % 256 + p.length % 256 + (p.map BitVec.toNat).sum) % 256) := by
  simp only [frameChecksum, sum8_eq, List.cons_append, List.nil_append, List.map_cons, List.sum_cons, hi8_toNat, lo8_toNat,
    Nat.add_assoc]

/-- R57: the checksum of a command frame that fits the length field: the type byte is 0. -/
theorem frameChecksum_command (c : Byte) {p : List Byte} (h : p.length ≤ 65535) :
    frameChecksum 0x00 c p
      = BitVec.ofNat 8 (c.toNat + p.length / 256 + p.length % 256 + (p.map BitVec.toNat).sum) := by
  have hhi : p.length / 256 % 256 = p.length / 256 := Nat.mod_eq_of_lt (by omega)
  rw [frameChecksum_eq, hhi]
  apply BitVec.eq_of_toNat_eq
  simp

/-- R57: without parameters it is the command byte. -/
theorem frameChecksum_command_nil (c : Byte) : frameChecksum 0x00 c [] = c := by
  rw [frameChecksum_command c (Nat.zero_le _)]
  simp

/-- R80: the checksum of at most MAX_PARAMS parameter bytes is returned. -/
theorem exec_checksum_fits (t c : Byte) {p : List Byte} (s : State) (h : p.length ≤ 65535) :
    exec (.checksum t c p) s = .next { s with results := s.results ++ [.byte (frameChecksum t c p)] } := if_pos h

/-- R80 (log 15): of more, some byte is drawn. -/
theorem exec_checksum_tooLong (t c : Byte) {p : List Byte} (s : State) (h : 65535 < p.length) :
    exec (.checksum t c p) s = .next { s with
      results := s.results ++ [.byte (Config.freeChecksum s.draws)], draws := s.draws + 1 } := if_neg (Nat.not_le.2 h)

/-- Settles O4: the checksum of R57 is the formula of R80 (`frameChecksum_eq`). -/
theorem checksumResult : Obligations.ChecksumResult := by
  intro t c p s hp
  rw [exec_checksum_fits t c s hp, frameChecksum_eq]

-- ### The bytes of an encoded frame

/-- R55: the low length byte may be reduced modulo 256. -/
theorem lo8_eq_ofNat_mod (n : Nat) : lo8 n = BitVec.ofNat 8 (n % 256) := by
  apply BitVec.eq_of_toNat_eq
  simp

/-- R50: the bytes of an encoded frame, in order. -/
theorem encodeFrameBytes_eq (t : FrameType) (c : Byte) (p : List Byte) :
    encodeFrameBytes t c p
      = [0xBB, frameTypeByte t, c, hi8 p.length, lo8 p.length] ++ p ++ [frameChecksum (frameTypeByte t) c p, 0x7E] := rfl

/-- R50, R57: a command frame that fits the length field, with length bytes and checksum as numbers. -/
theorem encodeFrameBytes_command (c : Byte) {p : List Byte} (h : p.length ≤ 65535) :
    encodeFrameBytes .command c p
      = [0xBB, 0x00, c, BitVec.ofNat 8 (p.length / 256), BitVec.ofNat 8 (p.length % 256)] ++ p
          ++ [BitVec.ofNat 8 (c.toNat + p.length / 256 + p.length % 256 + (p.map BitVec.toNat).sum), 0x7E] := by
  rw [encodeFrameBytes_eq, frameTypeByte, frameChecksum_command c h, lo8_eq_ofNat_mod, hi8]

/-- R82, R84, R87: a command frame without parameters. -/
theorem encodeFrameBytes_command_nil (c : Byte) :
    encodeFrameBytes .command c [] = [0xBB, 0x00, c, 0x00, 0x00, c, 0x7E] := by
  rw [encodeFrameBytes_eq, frameTypeByte, frameChecksum_command_nil]
  rfl

-- ### The generic encoders

/-- R69: an instruction whose builder answers bytes returns them; its other outcome is `exec_argumentError`. -/
theorem exec_builtBytes {i : Instr} {s : State} {b : Except ArgumentName (List Byte)} {bs : List Byte}
    (hi : exec i s = .next (s.giveBuilt b)) (hb : b = .ok bs) :
    exec i s = .next { s with results := s.results ++ [.bytes bs] } := by rw [hi, hb]; rfl

/-- Settles O5: both encoders accept the parameters, and `encodeFrameBytes_eq` and `encodeFrameBytes_command` give the bytes. -/
theorem encodersResult : Obligations.EncodersResult := by
  intro t c p s hp
  constructor
  · rw [← encodeFrameBytes_command c hp]
    exact exec_builtBytes rfl (buildCommand_ok hp)
  · rw [← encodeFrameBytes_eq]
    exact exec_builtBytes rfl (encodeFrame_ok hp)

/-- Settles O6: both encoders report the parameters, and the checksum is drawn. -/
theorem tooLongParameters : Obligations.TooLongParameters := fun _ tb c _ s hp =>
  ⟨exec_argumentError rfl (buildCommand_error hp), exec_argumentError rfl (encodeFrame_error hp), _,
    exec_checksum_tooLong tb c s hp⟩

-- ### The seven builders

/-- Settles O8: each is the frame of one configured code without parameters (`encodeFrameBytes_command_nil`). -/
theorem fixedBuildersResult : Obligations.FixedBuildersResult := by
  intro s
  simp only [← encodeFrameBytes_command_nil]
  exact ⟨exec_builtBytes rfl (buildSinglePoll_eq _), exec_builtBytes rfl (buildStopPoll_eq _),
    exec_builtBytes rfl (buildGetRfPower_eq _)⟩

/-- Settles O9: a good count leaves `build_command` of the configured layout (`buildStartPoll_eq`), which accepts it or reports
it as too long. -/
theorem buildStartPollResult : Obligations.BuildStartPollResult := by
  intro count s
  refine ⟨fun hn hp => ?_, fun hn hp => ?_, fun hn => ?_⟩
  · exact exec_builtBytes rfl ((buildStartPoll_eq hn).trans (buildCommand_ok hp))
  · exact exec_argumentError rfl ((buildStartPoll_eq hn).trans (buildCommand_error hp))
  · exact exec_argumentError rfl (buildStartPoll_error hn)

/-- Settles O10: the password is checked, then the EPC, and the frame of R62's layout is built. -/
theorem buildWriteEpcResult : Obligations.BuildWriteEpcResult := by
  intro password epc s
  refine ⟨fun hw he => ?_, fun hw => ?_, fun hw he => ?_⟩
  · exact exec_builtBytes rfl (buildWriteEpc_ok hw he)
  · exact exec_argumentError rfl (buildWriteEpc_password hw)
  · exact exec_argumentError rfl (buildWriteEpc_epc hw he)

/-- Settles O11: the password is checked, then the payload, and the frame of both is built. -/
theorem buildLockTagResult : Obligations.BuildLockTagResult := by
  intro password payload s
  refine ⟨fun hw hl => ?_, fun hw => ?_, fun hw hl => ?_⟩
  · exact exec_builtBytes rfl (buildLockTag_ok hw hl)
  · exact exec_argumentError rfl (buildLockTag_password hw)
  · exact exec_argumentError rfl (buildLockTag_payload hw hl)

/-- Settles O12: a good power leaves `build_command` of the configured encoding (`buildSetRfPower_eq`), which accepts it or
reports it as too long; any other power is reported, not clamped (C2). -/
theorem buildSetRfPowerResult : Obligations.BuildSetRfPowerResult := by
  intro value s
  refine ⟨fun hv hp => ?_, fun hv hp => ?_, fun hv => ?_⟩
  · exact exec_builtBytes rfl ((buildSetRfPower_eq hv).trans (buildCommand_ok hp))
  · exact exec_argumentError rfl ((buildSetRfPower_eq hv).trans (buildCommand_error hp))
  · exact exec_argumentError rfl (buildSetRfPower_error hv)

end Sys2Proof.Safety
end

section
/-! PROOFS. The family Decode: what the codec's decode operations return (R100 to R110), that every builder's bytes parse (R112),
and the receive loop one turn at a time (R106, R111, R161). -/

namespace Sys2Proof.Safety

open Sys2Proof.Machine

-- ### The fields of a frame, by index

/-- R50, R100: the bytes of a frame and of its parts, at the indices of R100, whatever follows the frame. -/
theorem wireBytes_fields {w : Wire} (rest : List Byte) (hl : w.parameters.length ≤ maxParams) :
    (wireBytes w ++ rest).getD 0 0 = 0xBB
    ∧ (wireBytes w ++ rest).getD 1 0 = frameTypeByte w.frameType
    ∧ (wireBytes w ++ rest).getD 2 0 = w.command
    ∧ u16be ((wireBytes w ++ rest).getD 3 0) ((wireBytes w ++ rest).getD 4 0) = w.parameters.length
    ∧ (wireBytes w ++ rest).getD (5 + w.parameters.length) 0 = w.checksum
    ∧ (wireBytes w ++ rest).getD (6 + w.parameters.length) 0 = 0x7E :=
  ⟨rfl, rfl, rfl, u16be_hi8_lo8 hl, by simp [wireBytes, Nat.add_comm 5], by simp [wireBytes, Nat.add_comm 6, endByte]⟩

/-- R100, R101: the parameters, the bytes the checksum is over, and the whole frame, cut out of what the frame begins. -/
theorem wireBytes_cuts (w : Wire) (rest : List Byte) :
    (wireBytes w ++ rest).take (7 + w.parameters.length) = wireBytes w
    ∧ ((wireBytes w ++ rest).take (5 + w.parameters.length)).drop 5 = w.parameters
    ∧ sum8 (((wireBytes w ++ rest).take (5 + w.parameters.length)).drop 1)
      = frameChecksum (frameTypeByte w.frameType) w.command w.parameters := by
  refine ⟨List.take_left' (by simp [Nat.add_comm]), ?_, ?_⟩
  · simp [wireBytes, Nat.add_comm 5]
  · simp [wireBytes, Nat.add_comm 5, frameChecksum]

/-- R100: bytes that pass its five tests begin with a frame. -/
theorem eq_wireBytes_append {b : List Byte} {ft : FrameType} (h7 : 7 ≤ b.length) (hh : b.getD 0 0 = 0xBB)
    (ht : frameTypeOf (b.getD 1 0) = some ft) (hfit : 7 + u16be (b.getD 3 0) (b.getD 4 0) ≤ b.length)
    (he : b.getD (6 + u16be (b.getD 3 0) (b.getD 4 0)) 0 = 0x7E) :
    ∃ w rest, w.frameType = ft ∧ w.parameters.length ≤ maxParams ∧ b = wireBytes w ++ rest := by
  match b, h7 with
  | h :: t :: c :: lh :: ll :: body, _ =>
    simp only [List.getD_cons_zero, List.getD_cons_succ] at hh ht hfit he
    generalize hn : u16be lh ll = n at hfit he
    have hlen : n + 2 ≤ body.length := by simp only [List.length_cons] at hfit; omega
    rw [show 6 + n = n + 1 + 5 by omega] at he
    simp only [List.getD_cons_succ] at he
    rw [List.getD_eq_getElem _ _ (by omega)] at he
    have hbody : body = body.take n ++ body[n] :: 0x7E :: body.drop (n + 2) := by
      rw [← he, ← List.drop_eq_getElem_cons, ← List.drop_eq_getElem_cons, List.take_append_drop]
    have htake : (body.take n).length = n := List.length_take_of_le (by omega)
    refine ⟨{ frameType := ft, command := c, parameters := body.take n, checksum := body[n] }, body.drop (n + 2), rfl, ?_, ?_⟩
    · rw [htake, ← hn]; exact u16be_le lh ll
    · subst hh
      have hhi : hi8 n = lh := hn ▸ hi8_u16be lh ll
      have hlo : lo8 n = ll := hn ▸ lo8_u16be lh ll
      simpa [wireBytes, frameTypeByte_of ht, htake, hhi, hlo, header, endByte] using hbody

-- ### parse_frame

theorem exec_parseFrame (b : List Byte) (s : State) :
    exec (.parseFrame b) s = .next { s with results := s.results ++ [(parseFrame b).elim .notParseable .frame] } := by
  simp only [exec, execParseFrame]; cases parseFrame b <;> rfl

/-- Settles O13: what parses begins with a frame (`parseFrame_iff`), which passes every test (`wireBytes_fields`); and what passes
every test begins with a frame (`eq_wireBytes_append`), whose fields are those of the rule. -/
theorem parseFrameResult : Obligations.ParseFrameResult := by
  intro b s
  constructor
  · intro hbad
    have hnone : parseFrame b = none := by
      by_contra hsome
      obtain ⟨f, hf⟩ := Option.ne_none_iff_exists'.1 hsome
      obtain ⟨w, rest, hl, rfl, -⟩ := parseFrame_iff.1 hf
      obtain ⟨hh, ht, -, hlen, -, he⟩ := wireBytes_fields rest hl
      rw [hlen, hh, ht, he, List.length_append, length_wireBytes, frameTypeOf_byte] at hbad
      simp only [ne_eq, not_true_eq_false, reduceCtorEq, false_or, or_false] at hbad
      omega
    rw [exec_parseFrame, hnone]; rfl
  · intro ft h7 hh ht hfit he
    obtain ⟨w, rest, rfl, hl, rfl⟩ := eq_wireBytes_append h7 hh ht hfit he
    obtain ⟨-, -, hc, hlen, hk, -⟩ := wireBytes_fields rest hl
    obtain ⟨hframe, hparams, hsum⟩ := wireBytes_cuts w rest
    rw [exec_parseFrame, parseFrame_iff.2 ⟨w, rest, hl, rfl, rfl⟩, hlen, hc, hk, hframe, hparams, hsum]
    rfl

/-- R101, R112 (b): another checksum byte gives the same frame with that byte. -/
theorem set_checksum (w : Wire) (rest : List Byte) (x : Byte) :
    (wireBytes w ++ rest).set (5 + w.parameters.length) x = wireBytes { w with checksum := x } ++ rest := by
  simp [wireBytes, Nat.add_comm 5]

/-- Settles O14: the changed bytes begin with the same frame but for its checksum byte (`set_checksum`), and only one byte is the
recomputed one. -/
theorem checksumFlip : Obligations.ChecksumFlip := by
  intro b f x hf hvalid hx
  obtain ⟨w, rest, hl, rfl, rfl⟩ := parseFrame_iff.1 hf
  obtain ⟨-, -, -, -, hk, -⟩ := wireBytes_fields rest hl
  have hsum : w.checksum = frameChecksum (frameTypeByte w.frameType) w.command w.parameters := eq_of_beq hvalid
  refine ⟨_, parseFrame_iff.2 ⟨{ w with checksum := x }, rest, hl, set_checksum w rest x, rfl⟩, rfl, rfl, rfl, ?_⟩
  exact beq_false_of_ne fun h => hx (h.trans (hsum.symm.trans hk.symm))

-- ### The derived fields of a Frame

theorem responseCode_eq (f : Frame) :
    responseCode f = if f.frameType = .response then f.parameters.head? else none := by
  unfold responseCode
  cases f.frameType <;> rfl

theorem isSuccess_eq (f : Frame) :
    isSuccess f = decide (f.frameType = .response ∧ f.parameters.head? = some rcSuccess) := by
  rw [isSuccess, responseCode_eq, beq_eq_decide]
  by_cases ht : f.frameType = .response <;> simp [ht]

/-- R101: `checksum_valid` compares the checksum byte received with the recomputed one. -/
theorem checksumValid_of_parseFrame {b : List Byte} {f : Frame} (h : parseFrame b = some f) :
    f.checksumValid
      = (b.getD (5 + f.parameters.length) 0 == frameChecksum (frameTypeByte f.frameType) f.command f.parameters) := by
  obtain ⟨w, rest, hl, rfl, rfl⟩ := parseFrame_iff.1 h
  obtain ⟨-, -, -, -, hk, -⟩ := wireBytes_fields rest hl
  exact congrArg (· == _) hk.symm

/-- Settles O15: one lemma for each field. -/
theorem frameFlagsResult : Obligations.FrameFlagsResult := by
  intro f s
  refine ⟨?_, ?_, rfl, fun b hb => checksumValid_of_parseFrame hb⟩
  · simp only [exec, execFrameIsSuccess, isSuccess_eq]; rfl
  · simp only [exec, execFrameResponseCode, responseCode_eq]; rfl

-- ### Frame search and extraction

/-- R104: the search from the first header on, as tests of the length. -/
theorem findFrameEnd_first_header {front tail : List Byte} (h : header ∉ front) :
    findFrameEnd (front ++ header :: tail) =
      if tail.length < 4 then none
      else if front.length + tail.length + 1 ≤ front.length + 6 + u16be (tail.getD 2 0) (tail.getD 3 0) then none
      else some (front.length + 6 + u16be (tail.getD 2 0) (tail.getD 3 0)) := by
  rw [findFrameEnd_append h]
  match tail with
  | [] => rfl
  | [_] => rfl
  | [_, _] => rfl
  | [_, _, _] => rfl
  | _ :: _ :: lh :: ll :: _ =>
    rw [if_neg (by simp)]
    rfl

theorem exec_findFrameEnd (buf : List Byte) (s : State) :
    exec (.findFrameEnd buf) s
      = .next { s with results := s.results ++ [(findFrameEnd buf).elim .notFound .found] } := by
  simp only [exec, execFindFrameEnd]; cases findFrameEnd buf <;> rfl

/-- Settles O16: without a header nothing is found (`findFrameEnd_no_header`); from the first one on the length decides
(`findFrameEnd_first_header`). -/
theorem findFrameEndResult : Obligations.FindFrameEndResult := by
  constructor
  · intro buf s h
    rw [exec_findFrameEnd, findFrameEnd_no_header h]; rfl
  · intro front tail s h
    rw [exec_findFrameEnd, show (0xBB : Byte) = header from rfl, findFrameEnd_first_header h]
    simp only [apply_ite (Option.elim · Result.notFound Result.found), Option.elim_none, Option.elim_some]

theorem exec_extractFrame (buf : List Byte) (s : State) :
    exec (.extractFrame buf) s
      = .next { s with results := s.results ++ [(extractFrame buf).elim .incomplete fun x => .extracted x.1 x.2] } := by
  simp only [exec, execExtractFrame]; cases extractFrame buf <;> rfl

/-- Settles O17: extraction finds nothing exactly where the search does (`extractFrame_none_iff`), and else cuts at the header and
after the end (`extractFrame_append`). -/
theorem extractFrameResult : Obligations.ExtractFrameResult := by
  intro buf s
  constructor
  · intro hn
    rw [exec_extractFrame, extractFrame_none_iff.2 hn]; rfl
  · rintro front tail e rfl hf he
    rw [exec_extractFrame, show (0xBB : Byte) = header from rfl, extractFrame_append hf he]; rfl

-- ### The builders' bytes parse

/-- R89, R101: an encoded frame parses to its own fields, with a valid checksum. -/
theorem parseFrame_encodeFrameBytes (t : FrameType) (c : Byte) {p : List Byte} (h : p.length ≤ 65535) :
    parseFrame (encodeFrameBytes t c p) = some
      { frameType := t, command := c, parameters := p, rawBytes := some (encodeFrameBytes t c p), checksumValid := true } := by
  refine (parseFrame_wireBytes h).trans ?_
  simp only [frameOfWire, wireChecksumValid, encodeFrameBytes, beq_self_eq_true]

/-- R81: where the outcome `b` of a builder is bytes, they are the command frame of `c` and `p`, and the parameters fit. -/
def BuildsCommand (c : Byte) (p : List Byte) (b : Except ArgumentName (List Byte)) : Prop :=
  ∀ bs, b = .ok bs → p.length ≤ 65535 ∧ bs = encodeFrameBytes .command c p

/-- A builder that reports an argument answers no bytes. -/
theorem BuildsCommand.of_error {c : Byte} {p : List Byte} {b : Except ArgumentName (List Byte)} {which : ArgumentName}
    (h : b = .error which) : BuildsCommand c p b := fun _ hb => by cases h.symm.trans hb

theorem BuildsCommand.of_ok {c : Byte} {p : List Byte} {b : Except ArgumentName (List Byte)} (hp : p.length ≤ 65535)
    (h : b = .ok (encodeFrameBytes .command c p)) : BuildsCommand c p b :=
  fun _ hb => ⟨hp, (Except.ok.inj (h.symm.trans hb)).symm⟩

theorem buildsCommand_buildCommand (c : Byte) (p : List Byte) : BuildsCommand c p (buildCommand c p) := by
  by_cases hp : p.length ≤ 65535
  · exact .of_ok hp (buildCommand_ok hp)
  · exact .of_error (buildCommand_error (Nat.not_le.1 hp))

theorem buildsCommand_buildStartPoll (c : Config) (count : Int) :
    BuildsCommand c.cmdStartPoll (applyParamFn c.startPollParams count.toNat) (buildStartPoll c count) := by
  by_cases hn : 0 ≤ count ∧ count ≤ 65535
  · rw [buildStartPoll_eq hn]; exact buildsCommand_buildCommand _ _
  · exact .of_error (buildStartPoll_error (by omega))

theorem buildsCommand_buildWriteEpc (c : Config) (password epc : List Byte) :
    BuildsCommand c.cmdWriteEpc
      (password ++ [c.membankEpc, hi8 c.writeStartAddr.toNat, lo8 c.writeStartAddr.toNat, 0x00, 0x06] ++ epc)
      (buildWriteEpc c password epc) := by
  by_cases h : password.length = 4 ∧ epc.length = 12
  · exact .of_ok (by simp [h]) (buildWriteEpc_ok h.1 h.2)
  · obtain ⟨which, hb⟩ := buildWriteEpc_error c (not_and_or.1 h)
    exact .of_error hb

theorem buildsCommand_buildLockTag (c : Config) (password payload : List Byte) :
    BuildsCommand c.cmdLockTag (password ++ payload) (buildLockTag c password payload) := by
  by_cases h : password.length = 4 ∧ payload.length = 3
  · exact .of_ok (by simp [h]) (buildLockTag_ok h.1 h.2)
  · obtain ⟨which, hb⟩ := buildLockTag_error c (not_and_or.1 h)
    exact .of_error hb

theorem buildsCommand_buildSetRfPower (c : Config) (value : Int) :
    BuildsCommand c.cmdSetRfPower (applyParamFn c.powerEncode value.toNat) (buildSetRfPower c value) := by
  by_cases hv : 0 ≤ value ∧ value ≤ 30
  · rw [buildSetRfPower_eq hv]; exact buildsCommand_buildCommand _ _
  · exact .of_error (buildSetRfPower_error (by omega))

/-- R112 (a): where an instruction returns bytes of a builder, they parse to the builder's command frame. -/
theorem parseFrame_of_built {i : Instr} {s t : State} {c : Byte} {p bs : List Byte} {b : Except ArgumentName (List Byte)}
    (hi : exec i s = .next (s.giveBuilt b)) (hb : BuildsCommand c p b) (ht : exec i s = .next t)
    (hr : t.results = s.results ++ [.bytes bs]) :
    parseFrame bs = some
      { frameType := .command, command := c, parameters := p, rawBytes := some bs, checksumValid := true } := by
  cases hi.symm.trans ht
  cases b with
  | error which => simp [State.giveBuilt, State.giveResult] at hr
  | ok out =>
    obtain rfl : out = bs := by simpa [State.giveBuilt, State.giveResult] using hr
    obtain ⟨hp, rfl⟩ := hb _ rfl
    exact parseFrame_encodeFrameBytes .command c hp

/-- Settles O18: each builder builds its own command (`BuildsCommand`), and what it builds parses. -/
theorem buildersRoundTrip : Obligations.BuildersRoundTrip := by
  intro s t command p password epc payload count value bs x hx
  simp only [List.mem_cons, List.not_mem_nil, or_false] at hx
  rcases hx with rfl | rfl | rfl | rfl | rfl | rfl | rfl | rfl
  · exact parseFrame_of_built rfl (buildsCommand_buildCommand _ _)
  · exact parseFrame_of_built rfl (buildsCommand_buildCommand _ _)
  · exact parseFrame_of_built rfl (buildsCommand_buildStartPoll _ _)
  · exact parseFrame_of_built rfl (buildsCommand_buildCommand _ _)
  · exact parseFrame_of_built rfl (buildsCommand_buildWriteEpc _ _ _)
  · exact parseFrame_of_built rfl (buildsCommand_buildLockTag _ _ _)
  · exact parseFrame_of_built rfl (buildsCommand_buildSetRfPower _ _)
  · exact parseFrame_of_built rfl (buildsCommand_buildCommand _ _)

-- ### Tag observations and response messages

theorem parseTagPoll_some {c : Config} {f : Frame} (ht : f.frameType = .notice) (hc : f.command = c.cmdPollNotice)
    (hl : 15 ≤ f.parameters.length) :
    parseTagPoll c f = some
      { rssi := f.parameters.getD 0 0
        pc := ofBe16 (f.parameters.getD 1 0) (f.parameters.getD 2 0)
        epcBytes := (f.parameters.drop 3).take 12 } := by
  unfold parseTagPoll
  rw [if_neg (not_not.2 ht), if_neg (not_not.2 hc), if_neg (by omega), if_neg (by omega), List.drop_take]

/-- R107: only a Notice is a tag observation. -/
theorem parseTagPoll_not_notice {c : Config} {f : Frame} (h : f.frameType ≠ .notice) : parseTagPoll c f = none := if_pos h

theorem exec_parseTagPollData (f : Frame) (s : State) :
    exec (.parseTagPollData f) s
      = .next { s with results := s.results ++ [(parseTagPoll s.cfg f).elim .noData .tagPoll] } := by
  simp only [exec, execParseTagPollData]; cases parseTagPoll s.cfg f <;> rfl

/-- Settles O24: data with all three conditions (`parseTagPoll_some`), none where one of them fails (`parseTagPoll_not_notice`,
`parseTagPoll_none`). -/
theorem parseTagPollResult : Obligations.ParseTagPollResult := by
  intro f s
  constructor
  · rintro ⟨ht, hc, hl⟩
    rw [exec_parseTagPollData, parseTagPoll_some ht hc hl]; rfl
  · intro h
    have hnone : parseTagPoll s.cfg f = none := by
      by_cases ht : f.frameType = .notice
      · exact parseTagPoll_none (by rw [← Nat.not_le]; exact not_and_or.1 fun h' => h ⟨ht, h'⟩)
      · exact parseTagPoll_not_notice ht
    rw [exec_parseTagPollData, hnone]; rfl

/-- R108: the model's digits are the sixteen uppercase ones. -/
theorem hexDigit_eq : ∀ n < 16, hexDigit n = "0123456789ABCDEF".toList.getD n ' ' := by decide

/-- R108: the two nibbles of a byte are digits. -/
theorem hexByte_eq (b : Byte) :
    hexByte b = ["0123456789ABCDEF".toList.getD (b.toNat / 16) ' ', "0123456789ABCDEF".toList.getD (b.toNat % 16) ' '] := by
  have hb := b.isLt
  rw [hexByte, hexDigit_eq _ (by omega), hexDigit_eq _ (by omega)]

theorem length_flatMap_hexByte (bs : List Byte) : (bs.flatMap hexByte).length = 2 * bs.length := by
  induction bs with
  | nil => rfl
  | cons b bs ih =>
    simp only [List.flatMap_cons, List.length_append, ih, hexByte, List.length_cons, List.length_nil]
    omega

/-- R108: digits 2k and 2k+1 are those of byte k. -/
theorem getD_flatMap_hexByte (bs : List Byte) : ∀ k < bs.length,
    (bs.flatMap hexByte).getD (2 * k) ' ' = "0123456789ABCDEF".toList.getD ((bs.getD k 0).toNat / 16) ' '
    ∧ (bs.flatMap hexByte).getD (2 * k + 1) ' ' = "0123456789ABCDEF".toList.getD ((bs.getD k 0).toNat % 16) ' ' := by
  induction bs with
  | nil => intro k hk; cases hk
  | cons b bs ih =>
    intro k hk
    rw [List.flatMap_cons, hexByte_eq]
    cases k with
    | zero => exact ⟨rfl, rfl⟩
    | succ k => exact ih k (Nat.lt_of_succ_lt_succ hk)

/-- Settles O25: the digits are those of each byte in order (`getD_flatMap_hexByte`). -/
theorem epcHexResult : Obligations.EpcHexResult := by
  intro d s hlen
  exact ⟨d.epcBytes.flatMap hexByte, rfl, by rw [length_flatMap_hexByte, hlen],
    fun k hk => getD_flatMap_hexByte d.epcBytes k (hlen ▸ hk)⟩

/-- R109: with two bytes or more, both are compared. -/
theorem isReaderTag_eq (c : Config) {d : TagPollData} (h : 2 ≤ d.epcBytes.length) :
    isReaderTag c d
      = decide (d.epcBytes.getD 0 0 = c.vendorPrefix0 ∧ d.epcBytes.getD 1 0 = c.vendorPrefix1) := by
  unfold isReaderTag
  match d.epcBytes, h with
  | a :: b :: rest, _ => simp [beq_eq_decide]

/-- Settles O26: an EPC has the two bytes that are compared (`isReaderTag_eq`). -/
theorem isReaderTagResult : Obligations.IsReaderTagResult := by
  intro d s hlen
  simp only [exec, execIsReaderTag, isReaderTag_eq s.cfg (d := d) (by omega)]; rfl

/-- R61, R110: the codes with a label of their own. -/
def labeledCodes (c : Config) : List (Byte × ResponseLabel) :=
  [(rcSuccess, .success), (c.rcInvalidCommand, .invalidCommand), (c.rcInvalidParameter, .invalidParameter),
    (c.rcMemoryOverrun, .memoryOverrun), (c.rcMemoryLocked, .memoryLocked), (c.rcTagNotFound, .tagNotFound),
    (c.rcReadFailed, .readFailed), (c.rcWriteFailed, .writeFailed), (c.rcLockFailed, .lockFailed)]

/-- R110: looking a code up in a table is testing its first entry, then the others. -/
theorem elim_lookup_cons (k code : Byte) (l : ResponseLabel) (rest : List (Byte × ResponseLabel)) (m : Message) :
    (((k, l) :: rest).lookup code).elim m .labeled
      = if code = k then .labeled l else (rest.lookup code).elim m .labeled := by
  rw [List.lookup_cons]
  by_cases h : code = k
  · simp [h]
  · rw [if_neg h, beq_false_of_ne h]

/-- R110: the message of a code is its label in the table, or the generic text. -/
theorem responseMessage_eq_lookup (c : Config) (code : Byte) :
    responseMessage c code = ((labeledCodes c).lookup code).elim (.unknown (unknownErrorText code)) .labeled := by
  simp only [responseMessage, labeledCodes, elim_lookup_cons, List.lookup_nil, Option.elim_none]

/-- R110: with distinct codes the message of each code in the table is its own label. -/
theorem responseMessage_of_mem {c : Config} {code : Byte} {l : ResponseLabel} (hd : c.responseCodesDistinct = true)
    (hm : (code, l) ∈ labeledCodes c) : responseMessage c code = .labeled l := by
  have hnodup : ((labeledCodes c).map Prod.fst).Nodup := of_decide_eq_true hd
  obtain ⟨before, after, hsplit⟩ := List.append_of_mem hm
  rw [hsplit, List.map_append, List.map_cons, List.nodup_append] at hnodup
  obtain ⟨-, -, hdisjoint⟩ := hnodup
  have hlookup : (labeledCodes c).lookup code = some l := by
    refine List.lookup_eq_some_iff.2 ⟨before, after, hsplit, fun p hp => bne_iff_ne.2 ?_⟩
    exact (hdisjoint p.1 (List.mem_map_of_mem hp) code List.mem_cons_self).symm
  rw [responseMessage_eq_lookup, hlookup]; rfl

/-- R110, D21: the message of any other code is the generic text. -/
theorem responseMessage_of_not_mem {c : Config} {code : Byte} (h : code ∉ (labeledCodes c).map Prod.fst) :
    responseMessage c code = .unknown (unknownErrorText code) := by
  have hlookup : (labeledCodes c).lookup code = none :=
    List.lookup_eq_none_iff.2 fun p hp => bne_iff_ne.2 fun e => h (e ▸ List.mem_map_of_mem hp)
  rw [responseMessage_eq_lookup, hlookup]; rfl

/-- R110, D21: the generic text ends in the two digits of the code. -/
theorem unknownErrorText_eq (code : Byte) :
    unknownErrorText code = "unknown error 0x" ++ String.ofList
      ["0123456789ABCDEF".toList.getD (code.toNat / 16) ' ', "0123456789ABCDEF".toList.getD (code.toNat % 16) ' '] := by
  simp only [unknownErrorText, hexText, List.flatMap_singleton, hexByte_eq]

/-- Settles O27: a code in the table has its label (`responseMessage_of_mem`), any other the generic text. -/
theorem responseMessageResult : Obligations.ResponseMessageResult := by
  intro code s hd
  have labeled {l : ResponseLabel} {k : Byte} (hm : (k, l) ∈ labeledCodes s.cfg) (hk : code = k) :
      responseMessage s.cfg code = .labeled l := responseMessage_of_mem hd (hk ▸ hm)
  refine ⟨responseMessage s.cfg code, rfl, labeled ?_, labeled ?_, labeled ?_, labeled ?_, labeled ?_, labeled ?_, labeled ?_,
    labeled ?_, labeled ?_, fun h => (responseMessage_of_not_mem h).trans (congrArg _ (unknownErrorText_eq code))⟩
  all_goals simp [labeledCodes, rcSuccess]

-- ### Command and Response frames

/-- R111, D22: a Command frame that is delivered is only emitted. -/
theorem deliver_command {s : State} {f : Frame} (ht : f.frameType = .command) :
    s.deliver f = { s with frameOut := s.frameOut ++ [f] } := by
  simp only [State.deliver, State.dispatchFrame, ht]

/-- R161: a Response that answers the pending command gives the waiter its outcome and clears the slot. -/
theorem deliver_response_match {s : State} {f : Frame} {w : Waiter} (ht : f.frameType = .response)
    (hp : s.pending = some w) (hc : w.command = f.command) :
    s.deliver f = { s with
      frameOut := s.frameOut ++ [f]
      results := s.results ++ [.host w.op (waiterOutcome s.cfg w.op f)]
      pending := none } := by
  simp only [State.deliver, State.dispatchFrame, ht, State.dispatchResponse, hp, if_pos hc, State.giveResult]

/-- R161, R170: any other Response is only emitted. -/
theorem deliver_response_other {s : State} {f : Frame} (ht : f.frameType = .response)
    (h : ∀ w, s.pending = some w → w.command ≠ f.command) :
    s.deliver f = { s with frameOut := s.frameOut ++ [f] } := by
  simp only [State.deliver, State.dispatchFrame, ht, State.dispatchResponse]
  split
  next w hw => exact if_neg (h w hw)
  next => rfl

/-- Settles O28: each row has a Command frame, which is delivered (`exec_frameRow`) and thereby only emitted. -/
theorem commandFramesOnlyEmitted : Obligations.CommandFramesOnlyEmitted := by
  intro s command k bank p password epc payload address words i hmem hi
  obtain ⟨w, hw, ht⟩ : ∃ w, wireOf s.cfg i = some w ∧ w.frameType = .command := by
    simp only [List.mem_cons, List.not_mem_nil, or_false] at hmem
    rcases hmem with rfl | rfl | rfl | rfl | rfl | rfl | rfl | rfl <;> exact ⟨_, rfl, rfl⟩
  obtain ⟨hbs, hf, hx⟩ := exec_frameRow hi hw
  exact ⟨_, _, hbs, hf, ht, by rw [hx, deliver_command ht]⟩

/-- Settles O29: both rows have a Response frame with that command, which is delivered (`exec_frameRow`). -/
theorem responseFramesDispatched : Obligations.ResponseFramesDispatched := by
  intro s command k p later i hmem hi
  obtain ⟨w, hw, ht, rfl⟩ : ∃ w, wireOf s.cfg i = some w ∧ w.frameType = .response ∧ w.command = command := by
    simp only [List.mem_cons, List.not_mem_nil, or_false] at hmem
    rcases hmem with rfl | rfl <;> exact ⟨_, rfl, rfl, rfl⟩
  obtain ⟨hbs, hf, hx⟩ := exec_frameRow hi hw
  refine ⟨_, _, hbs, hf, ht, rfl, fun v hv hc => ?_, fun h => ?_⟩
  · rw [hx, deliver_response_match ht hv hc]
  · rw [hx, deliver_response_other ht h]

-- ### One turn of the receive loop

/-- R106: a candidate that parses is taken out of RXBUF and delivered. -/
theorem receiveOne_of_frame {s : State} {candidate rest : List Byte} {f : Frame}
    (hx : extractFrame s.rxbuf = some (candidate, rest)) (hf : parseFrame candidate = some f) :
    s.receiveOne = some (State.deliver f { s with rxbuf := rest }) := by
  simp only [State.receiveOne, hx, hf]

/-- R106: one that does not is discarded by RESYNC_POLICY. -/
theorem receiveOne_of_reject {s : State} {candidate rest : List Byte}
    (hx : extractFrame s.rxbuf = some (candidate, rest)) (hf : parseFrame candidate = none) :
    s.receiveOne = some { s with rxbuf := resync s.cfg.resyncPolicy s.rxbuf rest } := by
  simp only [State.receiveOne, hx, hf]

/-- D17: under `drop_span`, with the whole candidate. -/
theorem receiveOne_dropSpan {s : State} {candidate rest : List Byte}
    (hx : extractFrame s.rxbuf = some (candidate, rest)) (hf : parseFrame candidate = none)
    (hp : s.cfg.resyncPolicy = .dropSpan) : s.receiveOne = some { s with rxbuf := rest } := by
  rw [receiveOne_of_reject hx hf, hp, resync_dropSpan]

/-- D17: under `drop_header_byte`, up to its header. -/
theorem receiveOne_dropHeaderByte {s : State} {candidate rest front tail : List Byte}
    (hx : extractFrame s.rxbuf = some (candidate, rest)) (hf : parseFrame candidate = none)
    (hp : s.cfg.resyncPolicy = .dropHeaderByte) (hs : s.rxbuf = front ++ header :: tail) (hh : header ∉ front) :
    s.receiveOne = some { s with rxbuf := tail } := by
  rw [receiveOne_of_reject hx hf, hp, hs, resync_dropHeaderByte hh]

/-- R67, R100: what decodes to a row parses to its Frame, which the row delivers. -/
theorem exec_of_decode {c : Config} {b tail : List Byte} {i : Instr} (h : decode c b = .ok (i, tail)) :
    ∃ f, parseFrame b = some f ∧ ∀ s : State, s.cfg = c → exec i s = .next (s.deliver f) := by
  obtain ⟨w, hw, rfl⟩ := decode_ok h
  refine ⟨frameOfWire w, by simp only [parseFrame, hw], ?_⟩
  rintro s rfl
  exact exec_of_wireOf (wireOf_classify _ w)

/-- R67, R100: what decodes to no row does not parse. -/
theorem parseFrame_of_decode_error {c : Config} {b : List Byte} {reason : Reject} (h : decode c b = .error reason) :
    parseFrame b = none := by
  cases hr : readWire b with
  | ok x => simp only [decode, hr, reduceCtorEq] at h
  | error r => simp only [parseFrame, hr]

-- ### rx_push

/-- R106: a chunk that fits is appended, and the loop runs. -/
theorem exec_rxPush_fits {chunk : List Byte} {s : State} (h : chunkFits chunk s) :
    exec (.rxPush chunk) s = .next (State.drain (s.rxbuf ++ chunk).length { s with rxbuf := s.rxbuf ++ chunk }) := by
  simp only [exec, execRxPush, State.rxPush_fits h]

/-- R36. -/
theorem exec_rxPush_overflow {chunk : List Byte} {s : State} (h : ¬ chunkFits chunk s) :
    exec (.rxPush chunk) s = .refused .rxbufOverflow := by
  simp only [exec, execRxPush, State.rxPush_overflow h]

/-- R106: without a complete candidate that is all. -/
theorem exec_rxPush_incomplete {chunk : List Byte} {s : State} (h : chunkFits chunk s)
    (hx : extractFrame (s.rxbuf ++ chunk) = none) :
    exec (.rxPush chunk) s = .next { s with rxbuf := s.rxbuf ++ chunk } := by
  rw [exec_rxPush_fits h, State.drain_of_drained _ hx]

/-- R6: no turn writes the configuration. -/
theorem cfg_of_receiveOne {s t : State} (h : s.receiveOne = some t) : t.cfg = s.cfg := by
  obtain ⟨-, hcfg, -⟩ := continues_receiveOne h
  exact hcfg

/-- R106: a turn of the loop, after which RXBUF is shorter, and the rest as `rx_push` of the empty chunk does it. -/
theorem exec_rxPush_turn {chunk : List Byte} {s t : State} (h : chunkFits chunk s)
    (ht : State.receiveOne { s with rxbuf := s.rxbuf ++ chunk } = some t) :
    exec (.rxPush chunk) s = exec (.rxPush []) t := by
  have hlen : t.rxbuf.length < (s.rxbuf ++ chunk).length := (State.receiveOne_rxbuf ht).1
  have hfits : chunkFits [] t := by
    intro cap hcap
    have := h cap (cfg_of_receiveOne ht ▸ hcap)
    simp only [List.length_append, List.length_nil] at hlen ⊢
    omega
  obtain ⟨n, hn⟩ := Nat.exists_eq_succ_of_ne_zero (Nat.ne_zero_of_lt hlen)
  rw [exec_rxPush_fits h, exec_rxPush_fits hfits, hn, State.drain_succ ht, List.append_nil]
  exact congrArg _ (State.drain_fuel _ _ t (by omega) (Nat.le_refl _))

/-- R30, R106: what the loop does to RXBUF and the streams of received data: bytes go from the front of RXBUF, and Frames that
parse come out. -/
def Received (s t : State) : Prop :=
  t.rxbuf <:+ s.rxbuf ∧ (∃ fs, t.frameOut = s.frameOut ++ fs ∧ ∀ f ∈ fs, ∃ b, parseFrame b = some f)
    ∧ t.byteOut = s.byteOut

theorem received_refl (s : State) : Received s s := ⟨List.suffix_rfl, ⟨[], by simp, by simp⟩, rfl⟩

theorem received_trans {a b c : State} (h : Received a b) (h' : Received b c) : Received a c := by
  obtain ⟨hr, ⟨fs, hf, hp⟩, hb⟩ := h
  obtain ⟨hr', ⟨fs', hf', hp'⟩, hb'⟩ := h'
  refine ⟨hr'.trans hr, ⟨fs ++ fs', by rw [hf', hf, List.append_assoc], fun f hmem => ?_⟩, hb'.trans hb⟩
  exact (List.mem_append.1 hmem).elim (hp f) (hp' f)

theorem received_receiveOne {s t : State} (h : s.receiveOne = some t) : Received s t := by
  refine ⟨(State.receiveOne_rxbuf h).2, ?_⟩
  obtain ⟨candidate, rest, -, ⟨f, hf, rfl⟩ | ⟨-, rfl⟩⟩ := State.receiveOne_some h
  · refine ⟨⟨[f], by simp, fun g hg => ?_⟩, by simp⟩
    exact ⟨candidate, (List.mem_singleton.1 hg) ▸ hf⟩
  · exact ⟨⟨[], by simp, by simp⟩, rfl⟩

theorem received_drain (n : Nat) (s : State) : Received s (State.drain n s) :=
  State.drain_induction (P := Received s) (fun _ _ h hs => received_trans hs (received_receiveOne h)) n s (received_refl s)

/-- Settles O19: the fuel suffices (`State.drain_drained`), and every turn receives (`received_drain`). -/
theorem rxPushDrains : Obligations.RxPushDrains := by
  intro chunk s
  refine ⟨fun h => ?_, exec_rxPush_overflow⟩
  obtain ⟨hr, ⟨fs, hf, hp⟩, hb⟩ := received_drain (s.rxbuf ++ chunk).length { s with rxbuf := s.rxbuf ++ chunk }
  exact ⟨_, fs, exec_rxPush_fits h, State.drain_drained _ _ (Nat.le_refl _), hr, hf, hp, hb⟩

/-- Settles O20: without a candidate the loop ends at once; each kind of candidate is one turn of it (`exec_rxPush_turn`). -/
theorem rxPushLoop : Obligations.RxPushLoop := by
  intro chunk s h
  refine ⟨exec_rxPush_incomplete h, fun candidate rest hx => ⟨fun i tail hd => ?_, fun reason hd => ?_⟩⟩
  · obtain ⟨f, hf, hi⟩ := exec_of_decode hd
    exact ⟨_, hi _ rfl, exec_rxPush_turn h (receiveOne_of_frame (s := { s with rxbuf := s.rxbuf ++ chunk }) hx hf)⟩
  · have hf := parseFrame_of_decode_error hd
    refine ⟨fun hp => ?_, fun hp front tail hs hh => ?_⟩
    · exact exec_rxPush_turn h (receiveOne_dropSpan (s := { s with rxbuf := s.rxbuf ++ chunk }) hx hf hp)
    · exact exec_rxPush_turn h (receiveOne_dropHeaderByte (s := { s with rxbuf := s.rxbuf ++ chunk }) hx hf hp hs hh)

/-- R106, R112: garbage, a whole frame and what follows: the frame is delivered, and the loop goes on with what follows. -/
theorem exec_rxPush_frame {chunk g rest : List Byte} {w : Wire} {s : State} (h : chunkFits chunk s) (hg : header ∉ g)
    (hl : w.parameters.length ≤ maxParams) (hr : s.rxbuf ++ chunk = g ++ (wireBytes w ++ rest)) :
    exec (.rxPush chunk) s = exec (.rxPush []) (State.deliver (frameOfWire w) { s with rxbuf := rest }) :=
  exec_rxPush_turn h (State.receiveOne_wire (s := { s with rxbuf := s.rxbuf ++ chunk }) hg hl hr)

/-- R112: where nothing follows, the loop is done. -/
theorem exec_rxPush_lastFrame {chunk g : List Byte} {w : Wire} {s : State} (h : chunkFits chunk s) (hg : header ∉ g)
    (hl : w.parameters.length ≤ maxParams) (hr : s.rxbuf ++ chunk = g ++ wireBytes w) :
    exec (.rxPush chunk) s = .next (State.deliver (frameOfWire w) { s with rxbuf := [] }) := by
  rw [exec_rxPush_frame h hg hl (rest := []) (by rw [hr, List.append_nil])]
  rw [exec_rxPush_incomplete (fun _ _ => by simp) (extractFrame_no_header (by simp)), List.append_nil]

/-- Settles O21: a proper front part of a frame is no candidate (`extractFrame_take`); with the second chunk RXBUF is the
frame. -/
theorem splitFrameReassembles : Obligations.SplitFrameReassembles := by
  intro b f k s hf hraw _ hk hs h
  obtain ⟨w, hl, rfl, rfl⟩ := parseFrame_exact hf hraw
  have hfirst : chunkFits ((wireBytes w).take k) s := by
    intro cap hcap
    have := h cap hcap
    simp only [List.length_take]
    omega
  have hsecond : chunkFits ((wireBytes w).drop k) { s with rxbuf := (wireBytes w).take k } := by
    intro cap hcap
    have := h cap hcap
    simp only [List.length_take, List.length_drop]
    omega
  refine ⟨_, ?_, exec_rxPush_lastFrame (g := []) hsecond (by simp) hl (List.take_append_drop k _), by simp, by simp⟩
  rw [exec_rxPush_incomplete hfirst (by rw [hs]; exact extractFrame_take hl hk), hs, List.nil_append]

/-- Settles O22: the first frame is one turn, and leaves the second one in RXBUF. -/
theorem twoFramesInOneChunk : Obligations.TwoFramesInOneChunk := by
  intro b₁ b₂ f₁ f₂ s hf₁ hraw₁ hf₂ hraw₂ hs h
  obtain ⟨w₁, hl₁, rfl, rfl⟩ := parseFrame_exact hf₁ hraw₁
  obtain ⟨w₂, hl₂, rfl, rfl⟩ := parseFrame_exact hf₂ hraw₂
  have hrest : chunkFits [] (State.deliver (frameOfWire w₁) { s with rxbuf := wireBytes w₂ }) := by
    intro cap hcap
    have := h cap (by simpa using hcap)
    simp only [State.deliver_rxbuf, List.length_append, List.length_nil] at this ⊢
    omega
  refine ⟨_, (exec_rxPush_frame (g := []) h (by simp) hl₁ (by simp only [hs, List.nil_append])).trans
    (exec_rxPush_lastFrame (g := []) hrest (by simp) hl₂ (by simp)), by simp, by simp⟩

/-- Settles O23: garbage and frame are one turn (`exec_rxPush_lastFrame`). -/
theorem garbageBeforeFrame : Obligations.GarbageBeforeFrame := by
  intro g b f s hg hf hraw hs h
  obtain ⟨w, hl, rfl, rfl⟩ := parseFrame_exact hf hraw
  exact ⟨_, exec_rxPush_lastFrame h hg hl (by simp only [hs, List.nil_append]), by simp, by simp⟩

-- ### One step

/-- R104, R232: a step that finds a frame row at the first header runs it. -/
theorem step_of_decode {s : State} {candidate rest tail : List Byte} {i : Instr}
    (hx : extractFrame s.rxbuf = some (candidate, rest)) (hd : decode s.cfg candidate = .ok (i, tail)) :
    step s = exec i { s with runBegun := true, rxbuf := rest } := by
  simp only [step, State.nextMove, State.fetchFrame, hx, hd]; rfl

/-- Settles O48: a row's bytes are the frame that extraction finds (`extractFrame_wire`) and decode to the row; of other bytes the
step is a turn of the receive loop (`step_of_receiveOne`). -/
theorem stepRunsFrameAtHeader : Obligations.StepRunsFrameAtHeader := by
  intro s
  constructor
  · intro garbage bs rest i hi hbs hg hs
    obtain ⟨w, hw, rfl⟩ := Option.map_eq_some_iff.1 hbs
    obtain ⟨hl, rfl⟩ := classify_of_wireOf hi hw
    have hx : extractFrame s.rxbuf = some (wireBytes w, rest) := by
      rw [hs, List.append_assoc]; exact extractFrame_wire hg hl
    have hread : readWire (wireBytes w) = .ok (w, []) := readWire_iff.2 ⟨(List.append_nil _).symm, hl⟩
    exact step_of_decode (tail := []) hx (by simp only [decode, hread])
  · intro candidate rest hx hf
    refine ⟨fun hp => ?_, fun hp front tail hs hh => ?_⟩
    · exact step_of_receiveOne (receiveOne_dropSpan (s := s.beginRun) hx hf hp)
    · exact step_of_receiveOne (receiveOne_dropHeaderByte (s := s.beginRun) hx hf hp hs hh)

end Sys2Proof.Safety
end

section
/-! PROOFS. The family Transport: connect, disconnect and write and their steps (R130 to R134, R139, R141), the environment's
events (R135, R136), the enable line (R138), and when an instruction is refused. -/

namespace Sys2Proof.Safety

open Sys2Proof.Machine

-- ### EN and the host's slot

/-- R17, R138: driving EN writes its level, and its history where the level changes. -/
theorem driveEn_eq (l : Line) (s : State) :
    s.driveEn l = { s with en := l, enOut := if s.en = l then s.enOut else s.enOut ++ [l] } := by
  unfold State.driveEn
  by_cases h : s.en = l
  · subst h; simp
  · simp only [if_neg h]

/-- R169: the results once the host has cancelled: a pending request is failed. -/
def resultsAfterCancel (s : State) : List Result :=
  match s.pending with
  | some w => s.results ++ [.host w.op (.failure .cancelled)]
  | none => s.results

/-- R169: the slot is cleared, polling ends, and that is all. -/
theorem cancelHost_eq (s : State) :
    s.cancelHost = { s with pending := none, polling := false, results := resultsAfterCancel s } := by
  cases hp : s.pending with
  | some w => simp only [State.cancelHost, resultsAfterCancel, hp]; rfl
  | none => simp only [State.cancelHost, resultsAfterCancel, hp]

-- ### connect and disconnect

/-- R131, step K1. -/
theorem exec_connect_begins {port : Text} {baud : Nat} {s : State} (hb : s.busy = none)
    (hc : s.conn.status = .disconnected ∨ s.conn.status = .error) :
    exec (.connect port baud) s = .next (s.beginConnect port baud) := by
  rcases hc with hc | hc <;> simp [exec, execConnect, hb, hc]

/-- R139. -/
theorem exec_connect_outside {port : Text} {baud : Nat} {s : State} (hb : s.busy = none)
    (hc : s.conn.status = .connecting ∨ s.conn.status = .connected) :
    exec (.connect port baud) s = .refused .outsideDiagram := by
  rcases hc with hc | hc <;> simp [exec, execConnect, hb, hc]

/-- R141. -/
theorem exec_connect_busy {port : Text} {baud : Nat} {s : State} (hb : s.busy ≠ none) :
    exec (.connect port baud) s = .refused .transportBusy := if_pos (Option.isSome_iff_ne_none.2 hb)

/-- R133, step D1. -/
theorem exec_disconnect_begins {s : State} (hb : s.busy = none) (hc : s.conn.status = .connected) :
    exec .disconnect s = .next (State.publish { s.conn with moduleEnabled := false }
      { s.cancelHost.driveEn .deasserted with busy := some .d2 }) := by
  simp [exec, execDisconnect, hb, hc]

/-- R139. -/
theorem exec_disconnect_outside {s : State} (hb : s.busy = none) (hc : s.conn.status ≠ .connected) :
    exec .disconnect s = .refused .outsideDiagram := by
  simp only [exec, execDisconnect, hb]
  cases h : s.conn.status with
  | connected => exact absurd h hc
  | disconnected => rfl
  | connecting => rfl
  | error => rfl

/-- R141. -/
theorem exec_disconnect_busy {s : State} (hb : s.busy ≠ none) : exec .disconnect s = .refused .transportBusy :=
  if_pos (Option.isSome_iff_ne_none.2 hb)

/-- Settles O32: K1 is `State.beginConnect`, which drives EN (`driveEn_eq`) and publishes CONN. -/
theorem connectBegins : Obligations.ConnectBegins := by
  intro port baud s hb hc
  rw [exec_connect_begins hb hc, State.beginConnect, driveEn_eq]
  rfl

/-- Settles O36: in D1 the host cancels (`cancelHost_eq`), EN is driven (`driveEn_eq`) and CONN published. -/
theorem disconnectBegins : Obligations.DisconnectBegins := by
  intro s hb hc
  rw [exec_disconnect_begins hb hc, cancelHost_eq, driveEn_eq]
  rfl

-- ### write

/-- R134: outside Connected nothing is sent. -/
theorem exec_write_outside {bytes : List Byte} {s : State} (hc : s.conn.status ≠ .connected) :
    exec (.write bytes) s = .next { s with results := s.results ++ [.transport .write false] } := by
  simp only [exec, execWrite, State.transportWrite, if_pos hc]; rfl

/-- R141. -/
theorem exec_write_busy {bytes : List Byte} {s : State} (hb : s.busy ≠ none) (hc : s.conn.status = .connected) :
    exec (.write bytes) s = .refused .transportBusy := by
  simp only [exec, execWrite, State.transportWrite_busy bytes hc hb]

/-- R134: with the answer ok all the bytes are sent. -/
theorem exec_write_ok {bytes : List Byte} {s s' : State} (hc : s.conn.status = .connected) (hb : s.busy = none)
    (hq : s.ask (.portWrite bytes) = (.ok, s')) :
    exec (.write bytes) s = .next ((s'.txEmit bytes).giveResult (.transport .write true)) := by
  simp [exec, execWrite, State.transportWrite, hc, hb, hq]

/-- R134: with a failing answer only so many of them, from the front. -/
theorem exec_write_fail {bytes : List Byte} {s s' : State} {msg : Text} {n : Nat} (hc : s.conn.status = .connected)
    (hb : s.busy = none) (hq : s.ask (.portWrite bytes) = (.fail msg n, s')) :
    exec (.write bytes) s = .next ((s'.txEmit (bytes.take n)).giveResult (.transport .write false)) := by
  simp [exec, execWrite, State.transportWrite, hc, hb, hq]

/-- Settles O38: outside Connected nothing is sent; in Connected the answer decides, the scripted one or a free one. -/
theorem writeResult : Obligations.WriteResult := by
  intro s bytes
  refine ⟨exec_write_outside, fun rest hc hb => ⟨fun ha => ?_, fun msg n ha => ?_⟩, fun hc hb ha => ?_⟩
  · rw [exec_write_ok hc hb (State.ask_scripted ha)]; rfl
  · rw [exec_write_fail hc hb (State.ask_scripted ha)]; rfl
  · have hask := State.ask_free (q := .portWrite bytes) ha
    cases hf : Config.freeAnswer s.draws with
    | ok => rw [hf] at hask; exact .inl (exec_write_ok hc hb hask)
    | fail msg n => rw [hf] at hask; exact .inr ⟨n, exec_write_fail hc hb hask⟩

/-- Settles O33: connect, disconnect and write ask for the operation in progress and the status first; a host operation with
good arguments gets as far as its write (`hostCommand_busy`, `hostSetPolling_busy`). -/
theorem outsideDiagramRefused : Obligations.OutsideDiagramRefused := by
  intro s port baud bytes value epc password payload
  refine ⟨exec_connect_outside, exec_disconnect_outside, exec_connect_busy, exec_disconnect_busy, exec_write_busy,
    fun hb hc => ⟨fun hpoll hlen => ?_, fun hpoll => ?_, fun hp =>
      ⟨fun hv hlen => ?_, ?_, fun hw he => ?_, fun hw hl => ?_, ?_⟩⟩⟩
  · have hbuilt := (buildStartPoll_eq (c := s.cfg) (n := 0) (by omega)).trans (buildCommand_ok hlen)
    simp only [exec, execHostStartPolling, hbuilt]
    exact hostSetPolling_busy (by simp [hpoll]) hc hb
  · exact hostSetPolling_busy (op := .stopPolling) (wanted := false) (by simp [hpoll]) hc hb
  · have hbuilt := (buildSetRfPower_eq (c := s.cfg) hv).trans (buildCommand_ok hlen)
    simp only [exec, execHostSetRfPower, hbuilt]
    exact hostCommand_busy hp hc hb
  · exact hostCommand_busy (op := .getRfPower) (c := s.cfg.cmdGetRfPower) hp hc hb
  · simp only [exec, execHostWriteEpc, buildWriteEpc_ok hw he]
    exact hostCommand_busy hp hc hb
  · simp only [exec, execHostLockTag, buildLockTag_ok hw hl]
    exact hostCommand_busy hp hc hb
  · exact hostCommand_busy (op := .singlePoll) (c := s.cfg.cmdSinglePoll) hp hc hb

-- ### The steps of connect

/-- R131: what a step asks depends on CONN only. -/
theorem phaseQuestion_congr {s t : State} (h : t.conn = s.conn) (p : Phase) : phaseQuestion t p = phaseQuestion s p := by
  unfold phaseQuestion; rw [h]

/-- R131, R132: with a failing answer F1 is next. -/
theorem step_fails {s : State} {p : Phase} {q : EnvQuestion} {msg : Text} {n : Nat} {rest : List EnvAnswer}
    (hx : RxbufDrained s) (hag : s.agenda = []) (hb : s.busy = some p) (hq : phaseQuestion s p = some q)
    (ha : s.answers = .fail msg n :: rest) :
    step s = .next { s with
      runBegun := true, answers := rest, asked := s.asked ++ [q], busy := some (.f1 msg) } := by
  rw [step_in_progress hx hag hb,
    phaseStep_fail ((phaseQuestion_congr (State.beginRun_conn s) p).trans hq) (State.ask_scripted (s := s.beginRun) ha)]
  rfl

/-- K2 with the answer ok. -/
theorem step_k2_ok {s : State} {rest : List EnvAnswer} (hx : RxbufDrained s) (hag : s.agenda = [])
    (hb : s.busy = some .k2) (ha : s.answers = .ok :: rest) :
    step s = .next { s with
      runBegun := true, answers := rest, portOpen := true, busy := some .k3
      asked := s.asked ++ [.openPort s.conn.portName s.conn.baudRate 8 1 .noParity] } := by
  rw [step_in_progress hx hag hb, phaseStep_k2_ok (State.ask_scripted (s := s.beginRun) ha)]; rfl

/-- K3 with the answer ok, from EN deasserted. -/
theorem step_k3_ok {s : State} {rest : List EnvAnswer} (hx : RxbufDrained s) (hag : s.agenda = [])
    (hb : s.busy = some .k3) (he : s.en = .deasserted) (ha : s.answers = .ok :: rest) :
    step s = .next { s with
      runBegun := true, answers := rest, asked := s.asked ++ [.assertEnable], busy := some .k4
      en := .asserted, enOut := s.enOut ++ [.asserted]
      conn := { s.conn with moduleEnabled := true }
      stateOut := s.stateOut ++ [{ s.conn with moduleEnabled := true }] } := by
  rw [step_in_progress hx hag hb, phaseStep_k3_ok (State.ask_scripted (s := s.beginRun) ha), driveEn_eq]
  simp only [State.beginRun_en, he]; rfl

/-- K4 with the answer ok. -/
theorem step_k4_ok {s : State} {rest : List EnvAnswer} (hx : RxbufDrained s) (hag : s.agenda = [])
    (hb : s.busy = some .k4) (ha : s.answers = .ok :: rest) :
    step s = .next { s with
      runBegun := true, answers := rest, asked := s.asked ++ [.settle], busy := some .k5 } := by
  rw [step_in_progress hx hag hb, phaseStep_k4_ok (State.ask_scripted (s := s.beginRun) ha)]; rfl

/-- K5 with the answer ok. -/
theorem step_k5_ok {s : State} {rest : List EnvAnswer} (hx : RxbufDrained s) (hag : s.agenda = [])
    (hb : s.busy = some .k5) (ha : s.answers = .ok :: rest) :
    step s = .next { s with
      runBegun := true, answers := rest, asked := s.asked ++ [.attachReader], busy := none, readerActive := true
      conn := { s.conn with status := .connected }
      stateOut := s.stateOut ++ [{ s.conn with status := .connected }]
      results := s.results ++ [.transport .connect true] } := by
  rw [step_in_progress hx hag hb, phaseStep_k5_ok (State.ask_scripted (s := s.beginRun) ha)]; rfl

/-- Settles O34: the four steps one after the other; EN is deasserted before K3 (`TransportInv.en_before_k3`). -/
theorem connectSucceeds : Obligations.ConnectSucceeds := by
  intro s rest hi hx hb hag ha
  have he : s.en = .deasserted := hi.en_before_k3 (.inl hb)
  refine ⟨_, Eq.trans (run_of_step (step_k2_ok hx hag hb ha)) <| Eq.trans (run_of_step (step_k3_ok hx hag rfl he rfl)) <|
    Eq.trans (run_of_step (step_k4_ok hx hag rfl rfl)) <| run_of_step (step_k5_ok hx hag rfl rfl),
    rfl, rfl, rfl, rfl, rfl, rfl, ?_, ?_, rfl, rfl, rfl, rfl, rfl, ⟨rfl, rfl, rfl, rfl, rfl⟩, rfl, rfl, rfl, hag, rfl⟩
  · simp
  · simp

/-- U17 (log 3): with no answer scripted a step that asks is as with the free answer scripted, which counts as drawn. -/
theorem phaseStep_free {s : State} {p : Phase} {q : EnvQuestion} (hq : phaseQuestion s p = some q) (ha : s.answers = []) :
    ∃ t, phaseStep p { s with answers := [Config.freeAnswer s.draws] } = t
      ∧ phaseStep p s = { t with draws := t.draws + 1 } := by
  have hfree := State.ask_free (q := q) ha
  generalize Config.freeAnswer s.draws = a at hfree ⊢
  have hscripted := State.ask_scripted (q := q) (s := { s with answers := [a] }) rfl
  have hq' : phaseQuestion { s with answers := [a] } p = some q := (phaseQuestion_congr rfl p).trans hq
  refine ⟨_, rfl, ?_⟩
  cases a with
  | fail msg n => rw [phaseStep_fail hq hfree, phaseStep_fail hq' hscripted, ← ha]
  | ok =>
    cases p <;> simp only [phaseQuestion, Option.some.injEq, reduceCtorEq] at hq <;> subst hq
    case k2 => rw [phaseStep_k2_ok hfree, phaseStep_k2_ok hscripted, ← ha]
    case k3 => rw [phaseStep_k3_ok hfree, phaseStep_k3_ok hscripted, driveEn_eq, driveEn_eq, ← ha]; rfl
    case k4 => rw [phaseStep_k4_ok hfree, phaseStep_k4_ok hscripted, ← ha]
    case k5 => rw [phaseStep_k5_ok hfree, phaseStep_k5_ok hscripted, ← ha]; rfl

-- ### Entering Error

/-- R199: the state in which Error is entered, written out (`driveEn_eq`). -/
theorem enterError_eq (policy : HwerrEnPolicy) (msg : Text) (s : State) :
    ∃ c : ConnectionState,
      s.enterError policy msg = { s with
        conn := c
        stateOut := s.stateOut ++ [c]
        en := errorLine policy s
        enOut := if s.en = errorLine policy s then s.enOut else s.enOut ++ [errorLine policy s]
        portOpen := errorPortOpen policy s
        readerActive := false
        draws := s.draws + 3 }
      ∧ c.status = .error ∧ c.errorMessage = some msg ∧ c.moduleEnabled = errorModuleEnabled policy s :=
  ⟨_, by rw [State.enterError, driveEn_eq]; rfl, rfl, rfl, rfl⟩

/-- R132, step F1: Error with everything off, and the result failure. -/
theorem phaseStep_f1 (msg : Text) (s : State) :
    ∃ c : ConnectionState,
      phaseStep (.f1 msg) s = { s with
        conn := c
        stateOut := s.stateOut ++ [c]
        en := .deasserted
        enOut := if s.en = .deasserted then s.enOut else s.enOut ++ [.deasserted]
        portOpen := false
        readerActive := false
        busy := none
        results := s.results ++ [.transport .connect false]
        draws := s.draws + 3 }
      ∧ c.status = .error ∧ c.errorMessage = some msg ∧ c.moduleEnabled = false := by
  obtain ⟨c, he, hc⟩ := enterError_eq .deassert msg s
  exact ⟨c, by rw [phaseStep, State.connectFailed, he]; rfl, hc⟩

/-- Settles O35: a step that asks fails with its answer (`step_fails`) and draws one where none is scripted (`phaseStep_free`); F1
enters Error (`phaseStep_f1`). -/
theorem connectFails : Obligations.ConnectFails := by
  intro s hx hag
  refine ⟨fun x hmem hb => ?_, fun msg hb => ?_⟩
  · have hq : phaseQuestion s x.1 = some x.2 := by
      simp only [List.mem_cons, List.not_mem_nil, or_false] at hmem
      rcases hmem with rfl | rfl | rfl | rfl <;> rfl
    refine ⟨fun msg n rest ha => step_fails hx hag hb hq ha, fun ha => ?_⟩
    obtain ⟨t, ht, hs⟩ := phaseStep_free (s := s.beginRun) ((phaseQuestion_congr (State.beginRun_conn s) x.1).trans hq) ha
    refine ⟨Config.freeAnswer s.draws, t, ?_, ?_⟩
    · rw [step_in_progress (s := { s with answers := [Config.freeAnswer s.draws] }) hx hag hb]; exact congrArg _ ht
    · rw [step_in_progress hx hag hb, hs]
  · obtain ⟨c, ht, hstatus, hmsg, henabled⟩ := phaseStep_f1 msg s.beginRun
    rw [step_in_progress hx hag hb, ht]
    exact ⟨_, rfl, hstatus, hmsg, henabled, rfl, rfl, rfl, rfl, rfl, rfl, rfl, rfl, rfl, rfl, rfl, rfl,
      ⟨rfl, rfl, rfl, rfl, rfl⟩, ⟨rfl, rfl, rfl⟩, rfl⟩

-- ### The steps of disconnect

/-- R133, step D2: the wait. -/
theorem step_d2 {s : State} (hx : RxbufDrained s) (hag : s.agenda = []) (hb : s.busy = some .d2) :
    step s = .next { s with runBegun := true, busy := some .d3 } := step_in_progress hx hag hb

/-- Step D3: the reader is released. -/
theorem step_d3 {s : State} (hx : RxbufDrained s) (hag : s.agenda = []) (hb : s.busy = some .d3) :
    step s = .next { s with runBegun := true, busy := some .d4, readerActive := false } := step_in_progress hx hag hb

/-- Step D4: the port is closed. -/
theorem step_d4 {s : State} (hx : RxbufDrained s) (hag : s.agenda = []) (hb : s.busy = some .d4) :
    step s = .next { s with runBegun := true, busy := some .d5, portOpen := false } := step_in_progress hx hag hb

/-- Step D5: Disconnected, and the result success. -/
theorem step_d5 {s : State} (hx : RxbufDrained s) (hag : s.agenda = []) (hb : s.busy = some .d5) :
    ∃ c : ConnectionState,
      step s = .next { s with
        runBegun := true, busy := none, conn := c, stateOut := s.stateOut ++ [c]
        results := s.results ++ [.transport .disconnect true], draws := s.draws + 1 }
      ∧ c.status = .disconnected ∧ c.moduleEnabled = s.conn.moduleEnabled ∧ c.errorMessage = none :=
  ⟨_, step_in_progress hx hag hb, rfl, rfl, rfl⟩

/-- Settles O37: the levels in D2 are fixed by the phase (`TransportInv.levels_of_phase`), and each step writes its own
register. -/
theorem disconnectCompletes : Obligations.DisconnectCompletes := by
  intro s hi hx hb hag
  have hlevels := hi.levels_of_phase
  simp only [phaseLevels, hb] at hlevels
  obtain ⟨-, he, hp, -⟩ := hlevels
  have henabled : s.conn.moduleEnabled = false := by simpa [he] using hi.enabled_iff
  obtain ⟨c, hd5, hstatus, hoff, hmsg⟩ := step_d5
    (s := { s with runBegun := true, busy := some .d5, readerActive := false, portOpen := false }) hx hag rfl
  exact ⟨_, _, _, _, step_d2 hx hag hb, step_d3 hx hag rfl, step_d4 hx hag rfl, hd5, rfl, rfl, rfl, hp, he,
    hstatus, hoff.trans henabled, hmsg, he, rfl, rfl, rfl, rfl, rfl, rfl, rfl, rfl, rfl, rfl, rfl,
    ⟨rfl, rfl, rfl, rfl, rfl⟩, rfl, rfl, rfl⟩

-- ### The environment's events

/-- R135: while the reader is attached a chunk is pushed after its event on BYTE_OUT. -/
theorem exec_envRxChunk_attached {bytes : List Byte} {s : State} (hr : s.readerActive = true) :
    exec (.envRxChunk bytes) s = exec (.rxPush bytes) { s with byteOut := s.byteOut ++ [bytes] } := by
  cases hp : State.rxPush bytes { s with byteOut := s.byteOut ++ [bytes] } with
  | ok t => simp only [exec, execEnvRxChunk, if_pos hr, execRxPush, hp]
  | error r => simp only [exec, execEnvRxChunk, if_pos hr, execRxPush, hp]

/-- R135 (log 22). -/
theorem exec_envRxChunk_detached {bytes : List Byte} {s : State} (hr : s.readerActive = false) :
    exec (.envRxChunk bytes) s = .next s := if_neg (by simp [hr])

/-- R136. -/
theorem exec_envHwError_enters {msg : Text} {s : State} (hc : s.conn.status = .connected) (hb : s.busy = none) :
    exec (.envHwError msg) s = .next (s.enterError s.cfg.hwerrEnPolicy msg).cancelHost := if_pos ⟨hc, hb⟩

/-- R136 (log 22). -/
theorem exec_envHwError_ignored {msg : Text} {s : State} (h : s.conn.status ≠ .connected ∨ s.busy ≠ none) :
    exec (.envHwError msg) s = .next s := if_neg fun ⟨hc, hb⟩ => h.elim (absurd hc) (absurd hb)

/-- Settles O39: the chunk is pushed (`exec_envRxChunk_attached`), and the loop ends drained (`State.drain_drained`). -/
theorem rxChunkResult : Obligations.RxChunkResult := by
  intro s bytes hr hfits
  have hpush : exec (.rxPush bytes) { s with byteOut := s.byteOut ++ [bytes] } = _ := exec_rxPush_fits hfits
  obtain ⟨-, -, hbyte⟩ := received_drain (s.rxbuf ++ bytes).length
    { s with rxbuf := s.rxbuf ++ bytes, byteOut := s.byteOut ++ [bytes] }
  exact ⟨_, (exec_envRxChunk_attached hr).trans hpush, hpush, hbyte, State.drain_drained _ _ (Nat.le_refl _)⟩

/-- Settles O41: Error is entered by the policy (`enterError_eq`), and the host cancels (`cancelHost_eq`). -/
theorem hwErrorResult : Obligations.HwErrorResult := by
  intro s msg
  refine ⟨exec_envHwError_ignored, fun hc hb => ⟨_, exec_envHwError_enters hc hb, ?_⟩⟩
  obtain ⟨c, he, hstatus, hmsg, henabled⟩ := enterError_eq s.cfg.hwerrEnPolicy msg s
  rw [he, cancelHost_eq]
  refine ⟨hstatus, hmsg, rfl, hb, rfl, fun hp => ?_, fun hp => ?_, fun hp => ?_, rfl, rfl, rfl, ?_, rfl, rfl, rfl, rfl, rfl,
    rfl, rfl, rfl, ⟨rfl, rfl, rfl⟩⟩
  · simp only [henabled, hp, errorLine, errorModuleEnabled, errorPortOpen, and_self]
  · simp only [henabled, hp, errorLine, errorModuleEnabled, errorPortOpen, and_self]
  · simp [henabled, hp, errorLine, errorModuleEnabled]
  · exact if_congr eq_comm rfl rfl

/-- Settles O60: neither event is enabled, and in a quiescent state the reader is off (`TransportInv.reader_off`). -/
theorem eventsNotEnabled : Obligations.EventsNotEnabled := by
  intro s bytes msg
  refine ⟨exec_envRxChunk_detached, fun hi ⟨hc, _⟩ => ?_, fun hr hfits => ?_⟩
  · have hc : s.conn.status ≠ .connected := by rcases hc with hc | hc <;> simp [hc]
    exact ⟨exec_envRxChunk_detached (hi.reader_off hc), exec_envHwError_ignored (.inl hc)⟩
  · rw [exec_envRxChunk_attached hr]; exact exec_rxPush_overflow hfits

-- ### The diagram

/-- Settles O54: the arcs are taken by the instructions and steps of their events; all that a step does to the status is its
`TransportMove`, and a step of connect is taken in Connecting (`TransportInv.connecting_iff`), one of disconnect in Connected. -/
theorem statusFollowsDiagram : Obligations.StatusFollowsDiagram := by
  refine ⟨fun s => ⟨fun port baud hb hc => ⟨_, exec_connect_begins hb hc, rfl⟩, fun rest hb ha => ?_,
    fun msg n rest hb ha => ?_, fun msg hb => ?_, fun hb => ?_,
    fun msg hc hb => ⟨_, exec_envHwError_enters hc hb, by simp⟩⟩, fun s t hi h => ?_⟩
  · rw [blockStep_of hb, phaseStep_k5_ok (State.ask_scripted ha)]; rfl
  · obtain ⟨p, hp, q, hq⟩ : ∃ p, s.busy = some p ∧ ∃ q, phaseQuestion s p = some q := by
      simp only [List.mem_cons, List.not_mem_nil, or_false] at hb
      rcases hb with hb | hb | hb | hb <;> exact ⟨_, hb, _, rfl⟩
    rw [blockStep_of hp, phaseStep_fail hq (State.ask_scripted ha)]
  · rw [blockStep_of hb]; rfl
  · rw [blockStep_of hb]; rfl
  · cases step_transportMove h with
    | still h => obtain ⟨hc, -⟩ := h; exact .inl (by rw [hc])
    | begins hr hb hc h₁ h₂ h₃ => exact .inr (.inl ⟨hc, h₁, hr⟩)
    | ends hr hb hc h₁ => exact .inl (h₁.trans hc.symm)
    | hwError hr hb hc h₁ => exact .inr (.inr (.inr (.inr (.inr ⟨hc, h₁, hb, hr⟩))))
    | poweredOn hp h₁ =>
      obtain ⟨hreset, -⟩ := State.atPowerOn_link hp
      exact .inl (by rw [h₁, hreset])
    | failing p msg hp hq h₁ => exact .inl (by rw [h₁])
    | f1 msg hp h₁ h₂ h₃ h₄ h₅ =>
      exact .inr (.inr (.inr (.inl ⟨hi.connecting_iff.2 (by rw [hp]; rfl), h₁.1, h₄, ⟨msg, hp, h₁.2⟩, h₅⟩)))
    | k2 hp h₁ => exact .inl (by rw [h₁])
    | k3 hp h₁ => exact .inl h₁
    | waits hp h₁ => exact .inl (by rw [h₁])
    | k5 hp h₁ => exact .inr (.inr (.inl ⟨hi.connecting_iff.2 (by rw [hp]; rfl), h₁, hp⟩))
    | d4 hp h₁ => exact .inl (by rw [h₁])
    | d5 hp h₁ => exact .inr (.inr (.inr (.inr (.inl ⟨hi.disconnecting (by rw [hp]; rfl), h₁, hp⟩))))

-- ### The enable line

/-- R138: what one step can do to EN. -/
inductive EnMove (s t : State) : Prop
  /-- nothing, and it does not enter Error -/
  | kept (he : t.en = s.en) (hc : t.conn.status = .error → s.conn.status = .error)
  /-- K3 -/
  | k3 (hp : s.busy = some .k3) (hc : t.conn.status = s.conn.status)
  /-- K1 -/
  | k1 (hr : ∃ port baud rest, s.agenda = .request (.connect port baud) :: rest)
      (hc : s.conn.status = .disconnected ∨ s.conn.status = .error) (he : t.en = .deasserted)
  /-- D1 -/
  | d1 (hr : ∃ rest, s.agenda = .request .disconnect :: rest) (hb : s.busy = none) (hc : s.conn.status = .connected)
      (hd : t.busy = some .d2) (hport : t.portOpen = s.portOpen) (he : t.en = .deasserted)
  /-- F1 -/
  | f1 (hp : ∃ msg, s.busy = some (.f1 msg)) (hc : t.conn.status = .error) (he : t.en = .deasserted)
  /-- R136 -/
  | hwError (hr : ∃ msg rest, s.agenda = .request (.envHwError msg) :: rest) (hb : s.busy = none)
      (hc : s.conn.status = .connected) (hc' : t.conn.status = .error)

theorem step_enMove {s t : State} (h : step s = .next t) : EnMove s t := by
  cases step_transportMove h with
  | still h => obtain ⟨hc, he, -⟩ := h; exact .kept he (by rw [hc]; exact id)
  | begins hr _ hc _ he => exact .k1 hr hc he
  | ends hr hb hc _ he hport hd => exact .d1 hr hb hc hd hport he
  | hwError hr hb hc hc' => exact .hwError hr hb hc hc'
  | poweredOn hp hc he =>
    obtain ⟨-, hoff, -⟩ := State.atPowerOn_link hp
    exact .kept (he.trans hoff.symm) (by rw [hc]; exact nofun)
  | failing _ _ _ _ hc he => exact .kept he (by rw [hc]; exact id)
  | f1 msg hp hc he => exact .f1 ⟨msg, hp⟩ hc.1 he
  | k2 _ hc he => exact .kept he (by rw [hc]; exact id)
  | k3 hp hc => exact .k3 hp hc
  | waits _ hc he => exact .kept he (by rw [hc]; exact id)
  | k5 _ hc he => exact .kept he (by rw [hc]; exact nofun)
  | d4 _ hc he => exact .kept he (by rw [hc]; exact id)
  | d5 _ hc he => exact .kept he (by rw [hc]; exact nofun)

/-- R138: EN becomes asserted only in K3. -/
theorem k3_of_asserted {s t : State} (hi : TransportInv s) (h : step s = .next t) (hs : s.en = .deasserted)
    (ht : t.en = .asserted) : s.busy = some .k3 := by
  cases step_enMove h with
  | kept he => simp [he, hs] at ht
  | k3 hp => exact hp
  | k1 _ _ he => simp [he] at ht
  | d1 _ _ _ _ _ he => simp [he] at ht
  | f1 _ _ he => simp [he] at ht
  | hwError _ hb hc =>
    obtain ⟨hon, -⟩ := hi.connected_on hc hb
    simp [hs] at hon

/-- R138: EN becomes deasserted only in D1, F1 and a hardware error, or in the K1 that finds it asserted in Error. -/
theorem event_of_deasserted {s t : State} (hi : TransportInv s) (h : step s = .next t) (hs : s.en = .asserted)
    (ht : t.en = .deasserted) :
    ((∃ rest, s.agenda = .request .disconnect :: rest) ∧ t.busy = some .d2 ∧ t.portOpen = true)
    ∨ ((∃ msg, s.busy = some (.f1 msg)) ∧ t.conn.status = .error)
    ∨ ((∃ msg rest, s.agenda = .request (.envHwError msg) :: rest) ∧ t.conn.status = .error)
    ∨ (s.cfg.hwerrEnPolicy ≠ .deassert ∧ s.conn.status = .error
      ∧ ∃ port baud rest, s.agenda = .request (.connect port baud) :: rest) := by
  cases step_enMove h with
  | kept he => simp [he, hs] at ht
  | k3 hp => have := hi.en_before_k3 (.inr hp); simp [hs] at this
  | k1 hr hc =>
    rcases hc with hc | hc
    · obtain ⟨hoff, -⟩ := hi.disconnected_off hc; simp [hs] at hoff
    · refine .inr (.inr (.inr ⟨fun hp => ?_, hc, hr⟩))
      obtain ⟨hoff, -⟩ := hi.error_off hc hp; simp [hs] at hoff
  | d1 hr hb hc hd hport =>
    obtain ⟨-, hopen⟩ := hi.connected_on hc hb
    exact .inl ⟨hr, hd, hport.trans hopen⟩
  | f1 hp hc => exact .inr (.inl ⟨hp, hc⟩)
  | hwError hr _ _ hc => exact .inr (.inr (.inl ⟨hr, hc⟩))

/-- R132, R138: a connect that fails leaves EN deasserted. -/
theorem deasserted_of_connectFailure {s t : State} (h : step s = .next t) (hs : s.conn.status = .connecting)
    (ht : t.conn.status = .error) : t.en = .deasserted := by
  cases step_enMove h with
  | kept _ hc => exact absurd (hc ht) (by simp [hs])
  | k3 _ hc => simp [hs, ht] at hc
  | k1 _ _ he => exact he
  | d1 _ _ _ _ _ he => exact he
  | f1 _ _ he => exact he
  | hwError _ _ hc => simp [hs] at hc

/-- Settles O55: what changes EN is its `EnMove`; its level after a step is that of the invariants, which the step keeps. -/
theorem enableLineRule : Obligations.EnableLineRule := by
  refine ⟨fun _ => rfl, fun s t hi h => ?_⟩
  have ht : TransportInv t := stepKeepsTransportInvariants s t hi h
  obtain ⟨-, hcfg, -⟩ := continues_step h
  refine ⟨k3_of_asserted hi h, event_of_deasserted hi h, fun hd => ht.en_after_d1 (by rw [hd]; rfl),
    deasserted_of_connectFailure h, fun hp hc => ?_, ht.enabled_iff⟩
  obtain ⟨hoff, -⟩ := ht.error_off hc (by rw [hcfg, hp])
  exact hoff

-- ### Refusals

/-- R141 (log 29): a command of the host has a next state unless its write is refused. -/
theorem hostCommand_outcome (op : HostOp) (c : Byte) (built : Except ArgumentName (List Byte)) (s : State) :
    (∃ t, hostCommand op c built s = .next t)
    ∨ (hostCommand op c built s = .refused .transportBusy ∧ s.busy ≠ none ∧ s.conn.status = .connected) := by
  unfold hostCommand
  split
  · exact .inl ⟨_, rfl⟩
  · split
    · exact .inl ⟨_, rfl⟩
    · split
      next hw => obtain ⟨rfl, hc, hb⟩ := State.transportWrite_error hw; exact .inr ⟨rfl, hb, hc⟩
      next => exact .inl ⟨_, rfl⟩
      next => exact .inl ⟨_, rfl⟩

/-- R141 (log 29): and so has a change of polling. -/
theorem hostSetPolling_outcome (op : HostOp) (wanted : Bool) (built : Except ArgumentName (List Byte)) (s : State) :
    (∃ t, hostSetPolling op wanted built s = .next t)
    ∨ (hostSetPolling op wanted built s = .refused .transportBusy ∧ s.busy ≠ none ∧ s.conn.status = .connected) := by
  unfold hostSetPolling
  split
  · exact .inl ⟨_, rfl⟩
  · split
    · exact .inl ⟨_, rfl⟩
    · split
      · exact .inl ⟨_, rfl⟩
      · split
        next hw => obtain ⟨rfl, hc, hb⟩ := State.transportWrite_error hw; exact .inr ⟨rfl, hb, hc⟩
        next => exact .inl ⟨_, rfl⟩
        next => exact .inl ⟨_, rfl⟩

/-- R134, R141: and so has a write. -/
theorem exec_write_outcome (bytes : List Byte) (s : State) :
    (∃ t, exec (.write bytes) s = .next t)
    ∨ (exec (.write bytes) s = .refused .transportBusy ∧ s.busy ≠ none ∧ s.conn.status = .connected) := by
  simp only [exec, execWrite]
  split
  next hw => obtain ⟨rfl, hc, hb⟩ := State.transportWrite_error hw; exact .inr ⟨rfl, hb, hc⟩
  next => exact .inl ⟨_, rfl⟩

/-- R134, R163 to R171: the operations that write. -/
def writesOut (i : Instr) : Prop :=
  (∃ bytes, i = .write bytes) ∨ i = .hostStartPolling ∨ i = .hostStopPolling ∨ (∃ v, i = .hostSetRfPower v)
    ∨ i = .hostGetRfPower ∨ (∃ e, i = .hostWriteEpc e) ∨ (∃ w l, i = .hostLockTag w l) ∨ i = .hostSinglePoll

/-- R139, R141, R220, R36: the cases in which an instruction is refused, by the refusal. -/
def refusalCase (i : Instr) (s : State) : Refusal → Prop
  | .notModelled _ => False
  | .outsideDiagram => s.busy = none
    ∧ ((∃ port baud, i = .connect port baud) ∧ (s.conn.status = .connecting ∨ s.conn.status = .connected)
      ∨ i = .disconnect ∧ s.conn.status ≠ .connected)
  | .transportBusy => s.busy ≠ none
    ∧ ((∃ port baud, i = .connect port baud) ∨ i = .disconnect ∨ s.conn.status = .connected ∧ writesOut i)
  | .midRunReset => i = .reset ∧ s.atPowerOn = false
  | .rxbufOverflow => (∃ b, i = .rxPush b ∧ ¬ chunkFits b s)
    ∨ ∃ b, i = .envRxChunk b ∧ s.readerActive = true ∧ ¬ chunkFits b s

/-- An instruction has a next state, or is refused in a case of the spec. -/
def completesOrRefused (i : Instr) (s : State) : Prop :=
  (∃ t, exec i s = .next t) ∨ ∃ r, exec i s = .refused r ∧ refusalCase i s r

/-- R10: a pure operation completes. -/
theorem IsPure.completes {i : Instr} (h : IsPure i) (s : State) : completesOrRefused i s := by
  obtain ⟨r, n, h⟩ := h
  exact .inl ⟨_, h s⟩

/-- R141: an operation that writes completes, or its write is refused. -/
theorem completesOrRefused_of_write {i : Instr} {s : State} (hi : writesOut i)
    (h : (∃ t, exec i s = .next t)
      ∨ (exec i s = .refused .transportBusy ∧ s.busy ≠ none ∧ s.conn.status = .connected)) : completesOrRefused i s :=
  h.imp_right fun ⟨hr, hb, hc⟩ => ⟨_, hr, hb, .inr (.inr ⟨hc, hi⟩)⟩

theorem connect_completesOrRefused (port : Text) (baud : Nat) (s : State) :
    completesOrRefused (.connect port baud) s := by
  by_cases hb : s.busy = none
  · have outside (hc : s.conn.status = .connecting ∨ s.conn.status = .connected) :
        completesOrRefused (.connect port baud) s :=
      .inr ⟨_, exec_connect_outside hb hc, hb, .inl ⟨⟨port, baud, rfl⟩, hc⟩⟩
    cases hc : s.conn.status with
    | disconnected => exact .inl ⟨_, exec_connect_begins hb (.inl hc)⟩
    | error => exact .inl ⟨_, exec_connect_begins hb (.inr hc)⟩
    | connecting => exact outside (.inl hc)
    | connected => exact outside (.inr hc)
  · exact .inr ⟨_, exec_connect_busy hb, hb, .inl ⟨port, baud, rfl⟩⟩

theorem disconnect_completesOrRefused (s : State) : completesOrRefused .disconnect s := by
  by_cases hb : s.busy = none
  · by_cases hc : s.conn.status = .connected
    · exact .inl ⟨_, exec_disconnect_begins hb hc⟩
    · exact .inr ⟨_, exec_disconnect_outside hb hc, hb, .inr ⟨rfl, hc⟩⟩
  · exact .inr ⟨_, exec_disconnect_busy hb, hb, .inr (.inl rfl)⟩

theorem rxPush_completesOrRefused (bytes : List Byte) (s : State) : completesOrRefused (.rxPush bytes) s := by
  by_cases h : chunkFits bytes s
  · exact .inl ⟨_, exec_rxPush_fits h⟩
  · exact .inr ⟨_, exec_rxPush_overflow h, .inl ⟨bytes, rfl, h⟩⟩

theorem envRxChunk_completesOrRefused (bytes : List Byte) (s : State) : completesOrRefused (.envRxChunk bytes) s := by
  cases hr : s.readerActive with
  | false => exact .inl ⟨_, exec_envRxChunk_detached hr⟩
  | true =>
    unfold completesOrRefused
    rw [exec_envRxChunk_attached hr]
    by_cases h : chunkFits bytes s
    · exact .inl ⟨_, exec_rxPush_fits h⟩
    · exact .inr ⟨_, exec_rxPush_overflow h, .inr ⟨bytes, rfl, hr, h⟩⟩

theorem envHwError_completesOrRefused (msg : Text) (s : State) : completesOrRefused (.envHwError msg) s := by
  by_cases h : s.conn.status = .connected ∧ s.busy = none
  · obtain ⟨hc, hb⟩ := h
    exact .inl ⟨_, exec_envHwError_enters hc hb⟩
  · exact .inl ⟨_, exec_envHwError_ignored (not_and_or.1 h)⟩

theorem reset_completesOrRefused (s : State) : completesOrRefused .reset s := by
  cases hp : s.atPowerOn with
  | true => exact .inl ⟨_, exec_reset_powerOn hp⟩
  | false => exact .inr ⟨_, exec_reset_refused hp, rfl, hp⟩

/-- R139, R141, R36, R220: every instruction, in every state. -/
theorem exec_completesOrRefused (i : Instr) (s : State) : completesOrRefused i s := by
  cases i with
  | frameCommand => exact .inl ⟨_, rfl⟩
  | frameResponse => exact .inl ⟨_, rfl⟩
  | frameNotice => exact .inl ⟨_, rfl⟩
  | cmdSinglePoll => exact .inl ⟨_, rfl⟩
  | cmdStartPoll => exact .inl ⟨_, rfl⟩
  | cmdStopPoll => exact .inl ⟨_, rfl⟩
  | cmdWriteEpc => exact .inl ⟨_, rfl⟩
  | cmdLockTag => exact .inl ⟨_, rfl⟩
  | cmdSetRfPower => exact .inl ⟨_, rfl⟩
  | cmdGetRfPower => exact .inl ⟨_, rfl⟩
  | noticeTagPoll => exact .inl ⟨_, rfl⟩
  | responseSuccess => exact .inl ⟨_, rfl⟩
  | checksum t c p => exact (pure_checksum t c p).completes s
  | encodeFrame => exact .inl ⟨_, rfl⟩
  | buildCommand => exact .inl ⟨_, rfl⟩
  | buildSinglePoll => exact .inl ⟨_, rfl⟩
  | buildStartPoll => exact .inl ⟨_, rfl⟩
  | buildStopPoll => exact .inl ⟨_, rfl⟩
  | buildWriteEpc => exact .inl ⟨_, rfl⟩
  | buildLockTag => exact .inl ⟨_, rfl⟩
  | buildSetRfPower => exact .inl ⟨_, rfl⟩
  | buildGetRfPower => exact .inl ⟨_, rfl⟩
  | parseFrame b => exact (pure_parseFrame b).completes s
  | frameChecksumValid => exact .inl ⟨_, rfl⟩
  | frameIsSuccess => exact .inl ⟨_, rfl⟩
  | frameResponseCode => exact .inl ⟨_, rfl⟩
  | findFrameEnd b => exact (pure_findFrameEnd b).completes s
  | extractFrame b => exact (pure_extractFrame b).completes s
  | rxPush b => exact rxPush_completesOrRefused b s
  | parseTagPollData f => exact (pure_parseTagPollData f).completes s
  | epcHex => exact .inl ⟨_, rfl⟩
  | isReaderTag => exact .inl ⟨_, rfl⟩
  | responseMessage => exact .inl ⟨_, rfl⟩
  | connect port baud => exact connect_completesOrRefused port baud s
  | disconnect => exact disconnect_completesOrRefused s
  | write b => exact completesOrRefused_of_write (by simp [writesOut]) (exec_write_outcome b s)
  | envRxChunk b => exact envRxChunk_completesOrRefused b s
  | envHwError msg => exact envHwError_completesOrRefused msg s
  | reset => exact reset_completesOrRefused s
  | hostStartPolling => exact completesOrRefused_of_write (by simp [writesOut]) (hostSetPolling_outcome _ _ _ s)
  | hostStopPolling =>
    exact completesOrRefused_of_write (by simp [writesOut])
      (hostSetPolling_outcome .stopPolling false (buildStopPoll s.cfg) s)
  | hostSetRfPower => exact completesOrRefused_of_write (by simp [writesOut]) (hostCommand_outcome _ _ _ s)
  | hostGetRfPower =>
    exact completesOrRefused_of_write (by simp [writesOut])
      (hostCommand_outcome .getRfPower s.cfg.cmdGetRfPower (buildGetRfPower s.cfg) s)
  | hostWriteEpc => exact completesOrRefused_of_write (by simp [writesOut]) (hostCommand_outcome _ _ _ s)
  | hostLockTag => exact completesOrRefused_of_write (by simp [writesOut]) (hostCommand_outcome _ _ _ s)
  | hostVerifyEpc => exact .inl ⟨_, rfl⟩
  | hostSinglePoll =>
    exact completesOrRefused_of_write (by simp [writesOut])
      (hostCommand_outcome .singlePoll s.cfg.cmdSinglePoll (buildSinglePoll s.cfg) s)

/-- Settles O59: the cases of `refusalCase`, refusal by refusal. -/
theorem onlySpecRefusals : Obligations.OnlySpecRefusals := by
  intro i s
  rcases exec_completesOrRefused i s with h | ⟨r, h, hr⟩
  · exact .inl h
  · cases r with
    | notModelled m => exact hr.elim
    | outsideDiagram => exact .inr (.inl ⟨h, hr⟩)
    | transportBusy => exact .inr (.inr (.inl ⟨h, hr⟩))
    | midRunReset => exact .inr (.inr (.inr (.inl ⟨h, hr⟩)))
    | rxbufOverflow => exact .inr (.inr (.inr (.inr ⟨h, hr⟩)))

end Sys2Proof.Safety
end

section
/-! PROOFS. The family Host: what keeps the host's invariants (R160, R168, R169), what a Response tells the waiter (R164, R165,
R171), and what the host operations do (R163 to R168, R195). -/

namespace Sys2Proof.Safety

open Sys2Proof.Machine

-- ### The host's invariants

/-- The link and the host are as before, but for a slot that may have been cleared. -/
def hostRelaxed (s t : State) : Prop :=
  t.conn = s.conn ∧ t.busy = s.busy ∧ (t.pending = s.pending ∨ t.pending = none) ∧ t.polling = s.polling
    ∧ t.password = s.password

theorem hostRelaxed_trans {a b c : State} (h : hostRelaxed a b) (h' : hostRelaxed b c) : hostRelaxed a c := by
  obtain ⟨hc, hb, hp, hl, hw⟩ := h
  obtain ⟨hc', hb', hp', hl', hw'⟩ := h'
  refine ⟨hc'.trans hc, hb'.trans hb, ?_, hl'.trans hl, hw'.trans hw⟩
  rcases hp' with hp' | hp'
  · rwa [hp']
  · exact .inr hp'

/-- R161, R162: of the link and the host a dispatched Frame can change the slot only, by clearing it. -/
theorem hostRelaxed_deliver (f : Frame) (s : State) : hostRelaxed s (s.deliver f) := by
  refine ⟨by simp, by simp, ?_, by simp, by simp⟩
  cases ht : f.frameType with
  | command => rw [deliver_command ht]; exact .inl rfl
  | notice => exact .inl (by simp only [State.deliver, State.dispatchFrame, ht, State.dispatchNotice_pending])
  | response =>
    by_cases hm : ∃ w, s.pending = some w ∧ w.command = f.command
    · obtain ⟨w, hw, hc⟩ := hm
      rw [deliver_response_match ht hw hc]; exact .inr rfl
    · rw [deliver_response_other ht fun w hw hc => hm ⟨w, hw, hc⟩]; exact .inl rfl

theorem hostRelaxed_receiveOne {s t : State} (h : s.receiveOne = some t) : hostRelaxed s t := by
  obtain ⟨c, r, -, ⟨f, -, rfl⟩ | ⟨-, rfl⟩⟩ := State.receiveOne_some h
  · exact hostRelaxed_deliver f { s with rxbuf := r }
  · exact ⟨rfl, rfl, .inl rfl, rfl, rfl⟩

theorem hostRelaxed_drain (n : Nat) (s : State) : hostRelaxed s (State.drain n s) :=
  State.drain_induction (P := hostRelaxed s) (fun _ _ h hs => hostRelaxed_trans hs (hostRelaxed_receiveOne h)) n s
    ⟨rfl, rfl, .inl rfl, rfl, rfl⟩

theorem HostInv.relax {s t : State} (h : HostInv s) (hr : hostRelaxed s t) : HostInv t := by
  obtain ⟨hc, hb, hp, hl, hw⟩ := hr
  refine ⟨fun hon => ?_, by rw [hw]; exact h.password_length⟩
  rw [hc, hb]
  refine h.slot_connected (hon.imp (fun hs => ?_) fun hs => by rwa [← hl])
  rcases hp with hp | hp
  · rwa [← hp]
  · rw [hp] at hs; cases hs

/-- R168, R169: off the link no command waits and polling is off. -/
theorem HostInv.idle {s : State} (h : HostInv s) (hoff : s.conn.status ≠ .connected ∨ s.busy ≠ none) :
    s.pending = none ∧ s.polling = false := by
  have hn : ¬ (s.pending.isSome = true ∨ s.polling = true) := fun hon => by
    obtain ⟨hc, hb⟩ := h.slot_connected hon
    exact hoff.elim (· hc) (· hb)
  simpa using hn

/-- Where no command waits and polling is off, the link does not matter. -/
theorem HostInv.of_idle {s : State} (hp : s.pending = none) (hl : s.polling = false) (hw : s.password.length = passwordLen) :
    HostInv s := ⟨by simp [hp, hl], hw⟩

/-- R131 to R133: no step of a connect or disconnect touches the host. -/
theorem phaseStep_host (p : Phase) (s : State) :
    (phaseStep p s).pending = s.pending ∧ (phaseStep p s).polling = s.polling ∧ (phaseStep p s).password = s.password := by
  rcases phaseStep_cases p s with
    ⟨q, msg, -, h⟩ | ⟨-, q, h⟩ | ⟨-, q, h⟩ | ⟨-, q, h⟩ | ⟨-, q, h⟩ | ⟨msg, -, h⟩ | ⟨-, h⟩ | ⟨-, h⟩ | ⟨-, h⟩ | ⟨-, h⟩
    <;> simp [h, stepD2, stepD3, stepD4, stepD5]

/-- A step of the operation in progress finds the host idle and leaves it so. -/
theorem HostInv.blockStep {s : State} (h : HostInv s) : HostInv (blockStep s) := by
  cases hb : s.busy with
  | none => rwa [blockStep_idle hb]
  | some p =>
    obtain ⟨hp, hl⟩ := h.idle (.inr (by simp [hb]))
    obtain ⟨hp', hl', hw'⟩ := phaseStep_host p s
    rw [blockStep_of hb]
    exact .of_idle (hp'.trans hp) (hl'.trans hl) (hw' ▸ h.password_length)

/-- R168, R169: the slot is taken and polling begins only in a write on the link; where the link goes, the host is idle or
cancels. -/
theorem HostInv.exec {i : Instr} {s t : State} (h : HostInv s) (he : exec i s = .next t) : HostInv t := by
  have hw := h.password_length
  cases exec_next he with
  | quiet rs n ht => subst ht; exact h.relax ⟨rfl, rfl, .inl rfl, rfl, rfl⟩
  | delivered f ht => subst ht; exact h.relax (hostRelaxed_deliver f s)
  | pushed chunk chunks s' hs ht =>
    obtain ⟨n, rfl, -⟩ := State.rxPush_ok ht
    subst hs
    exact h.relax (hostRelaxed_trans ⟨rfl, rfl, .inl rfl, rfl, rfl⟩ (hostRelaxed_drain n _))
  | connecting port baud _ _ hc ht =>
    subst ht
    obtain ⟨hp, hl⟩ := h.idle (.inl (by rcases hc with hc | hc <;> simp [hc]))
    exact .of_idle (by simpa using hp) (by simpa using hl) (by simpa using hw)
  | disconnecting _ _ _ ht => subst ht; exact .of_idle (by simp) (by simp) (by simpa using hw)
  | sent bs n rs p b hb hc ht => subst ht; exact ⟨fun _ => by simp [hb, hc], by simpa using hw⟩
  | hwError msg _ _ _ ht => subst ht; exact .of_idle (by simp) (by simp) (by simpa using hw)
  | poweredOn _ _ ht => subst ht; exact .of_idle rfl rfl rfl
  | waiting v ht => subst ht; exact h.relax ⟨rfl, rfl, .inl rfl, rfl, rfl⟩

theorem hostRelaxed_beginRun (rest : List Turn) (s : State) : hostRelaxed s (State.beginRun { s with agenda := rest }) :=
  ⟨rfl, rfl, .inl rfl, rfl, rfl⟩

theorem hostRelaxed_responseTimeout (s : State) : hostRelaxed s s.responseTimeout := by
  unfold State.responseTimeout
  split
  · exact ⟨rfl, rfl, .inr rfl, rfl, rfl⟩
  · exact ⟨rfl, rfl, .inl rfl, rfl, rfl⟩

/-- Settles O53: an instruction takes the slot only while the link is up (`HostInv.exec`), the block's steps find the host idle,
and the receive loop and the timers can only clear the slot. -/
theorem stepKeepsHostInvariants : Obligations.StepKeepsHostInvariants := by
  intro s t h hs
  cases step_next hs with
  | received hr => exact h.relax (hostRelaxed_trans (hostRelaxed_beginRun s.agenda s) (hostRelaxed_receiveOne hr))
  | requested i rest _ _ _ he => exact HostInv.exec (h.relax (by simp [hostRelaxed])) he
  | blockMoved rest _ ht => subst ht; exact (h.relax (hostRelaxed_beginRun rest s)).blockStep
  | responseTimedOut rest _ ht =>
    subst ht; exact h.relax (hostRelaxed_trans (hostRelaxed_beginRun rest s) (hostRelaxed_responseTimeout _))
  | verifyTimedOut rest index _ ht => subst ht; exact h.relax (by simp [hostRelaxed])
  | idle _ ht => subst ht; exact h

-- ### What a Response tells the waiter

theorem waiterOutcome_success {c : Config} {op : HostOp} {f : Frame} (ht : f.frameType = .response)
    (hp : f.parameters.head? = some rcSuccess) : waiterOutcome c op f = successOutcome op f.parameters :=
  if_pos (by simp [isSuccess_eq, ht, hp])

theorem waiterOutcome_failure {c : Config} {op : HostOp} {f : Frame} (ht : f.frameType = .response)
    (hp : f.parameters.head? ≠ some rcSuccess) :
    waiterOutcome c op f
      = .failure (.response f.parameters.head? (f.parameters.head?.map (responseMessage c))) := by
  unfold waiterOutcome
  rw [if_neg (by simp [isSuccess_eq, hp]), responseCode_eq, if_pos ht]

/-- R171: the tags that `single_poll` reports have 12 EPC bytes. -/
theorem successOutcome_singlePoll (p : List Byte) :
    ∃ ts, successOutcome .singlePoll p = .tagReads ts ∧ ∀ d ∈ ts, d.epcBytes.length = 12 := by
  refine ⟨_, rfl, fun d hd => ?_⟩
  split at hd
  · cases hd
  · exact eq_of_beq (List.mem_filter.1 hd).2

/-- Settles O30: the first parameter byte is the success code (`waiterOutcome_success`) or it is not
(`waiterOutcome_failure`). -/
theorem waiterOutcomes : Obligations.WaiterOutcomes := by
  intro c f ht
  refine ⟨fun hs => ?_, fun code hp hne op => ?_, fun hp op => ?_⟩
  · have hout (op : HostOp) : waiterOutcome c op f = successOutcome op f.parameters := waiterOutcome_success ht hs
    simp only [hout]
    exact ⟨rfl, rfl, rfl, ⟨_, rfl⟩, fun hp => congrArg HostResult.tagReads (if_pos hp), successOutcome_singlePoll _⟩
  · rw [waiterOutcome_failure ht (by rw [hp]; exact fun h => hne (Option.some.inj h)), hp]; rfl
  · rw [waiterOutcome_failure ht (by simp [hp]), hp]; rfl

-- ### The write inside a host operation

section

variable {op : HostOp} {c : Byte} {wanted : Bool} {bs : List Byte} {s s' : State}

theorem transportWrite_outside (hc : s.conn.status ≠ .connected) : s.transportWrite bs = .ok (false, s) := if_pos hc

theorem transportWrite_answered_ok (hc : s.conn.status = .connected) (hb : s.busy = none)
    (hq : s.ask (.portWrite bs) = (.ok, s')) : s.transportWrite bs = .ok (true, s'.txEmit bs) := by
  simp [State.transportWrite, hc, hb, hq]

theorem transportWrite_answered_fail {msg : Text} {n : Nat} (hc : s.conn.status = .connected) (hb : s.busy = none)
    (hq : s.ask (.portWrite bs) = (.fail msg n, s')) : s.transportWrite bs = .ok (false, s'.txEmit (bs.take n)) := by
  simp [State.transportWrite, hc, hb, hq]

/-- R160: with the slot occupied a command fails before its write. -/
theorem hostCommand_occupied (hp : s.pending ≠ none) : hostCommand op c (.ok bs) s = .next (s.hostFail op .slotOccupied) :=
  if_pos (Option.isSome_iff_ne_none.2 hp)

/-- R160, R168: with a free slot the write decides. -/
theorem hostCommand_sent (hp : s.pending = none) (hw : s.transportWrite bs = .ok (true, s')) :
    hostCommand op c (.ok bs) s = .next { s' with pending := some { op := op, command := c } } := by
  simp [hostCommand, hp, hw]

theorem hostCommand_notSent (hp : s.pending = none) (hw : s.transportWrite bs = .ok (false, s')) :
    hostCommand op c (.ok bs) s = .next (s'.hostFail op .notSent) := by
  simp [hostCommand, hp, hw]

/-- R168: polling is behind the connection gate, whatever the builder answers. -/
theorem hostSetPolling_outside {built : Except ArgumentName (List Byte)} (hc : s.conn.status ≠ .connected) :
    hostSetPolling op wanted built s = .next (s.hostFail op .notSent) := if_pos hc

/-- R163: polling that is already as wanted needs no write. -/
theorem hostSetPolling_already {built : Except ArgumentName (List Byte)} (hc : s.conn.status = .connected)
    (hl : s.polling = wanted) : hostSetPolling op wanted built s = .next (s.giveResult (.host op .success)) := by
  simp [hostSetPolling, hc, hl]

theorem hostSetPolling_sent (hc : s.conn.status = .connected) (hl : s.polling ≠ wanted)
    (hw : s.transportWrite bs = .ok (true, s')) :
    hostSetPolling op wanted (.ok bs) s = .next { s'.giveResult (.host op .success) with polling := wanted } := by
  simp [hostSetPolling, hc, hl, hw]

theorem hostSetPolling_notSent (hc : s.conn.status = .connected) (hl : s.polling ≠ wanted)
    (hw : s.transportWrite bs = .ok (false, s')) :
    hostSetPolling op wanted (.ok bs) s = .next (s'.hostFail op .notSent) := by
  simp [hostSetPolling, hc, hl, hw]

end

-- ### Polling

/-- R163: the operations that change polling, with the value wanted and the frame to send. -/
def pollingOperations (c : Config) : List (Instr × HostOp × Bool × List Byte) :=
  [(.hostStartPolling, .startPolling, true,
      encodeFrameBytes .command c.cmdStartPoll (applyParamFn c.startPollParams 0)),
    (.hostStopPolling, .stopPolling, false, encodeFrameBytes .command c.cmdStopPoll [])]

/-- R163: they are `hostSetPolling` of that value and that frame. -/
theorem exec_pollingOperation {s : State} {x : Instr × HostOp × Bool × List Byte} (hx : x ∈ pollingOperations s.cfg)
    (hlen : (applyParamFn s.cfg.startPollParams 0).length ≤ 65535) :
    exec x.1 s = hostSetPolling x.2.1 x.2.2.1 (.ok x.2.2.2) s := by
  simp only [pollingOperations, List.mem_cons, List.not_mem_nil, or_false] at hx
  rcases hx with rfl | rfl
  · have hbuilt : buildStartPoll s.cfg 0
        = .ok (encodeFrameBytes .command s.cfg.cmdStartPoll (applyParamFn s.cfg.startPollParams 0)) :=
      (buildStartPoll_eq (by omega)).trans (buildCommand_ok hlen)
    simp only [exec, execHostStartPolling, hbuilt]
  · rfl

/-- Settles O43: the gate and the idempotence come before the write (`hostSetPolling_outside`, `hostSetPolling_already`), whose
answer, scripted or free, then decides. -/
theorem hostPollingResult : Obligations.HostPollingResult := by
  intro s
  refine ⟨fun hc => ⟨hostSetPolling_outside hc, hostSetPolling_outside (built := buildStopPoll s.cfg) hc⟩,
    fun hc hl => hostSetPolling_already hc hl, fun hc hl => hostSetPolling_already (built := buildStopPoll s.cfg) hc hl,
    fun x hx hc hb hl hlen => ?_⟩
  rw [exec_pollingOperation hx hlen]
  refine ⟨fun rest ha => ?_, fun msg n rest ha => ?_, fun ha => ?_⟩
  · exact hostSetPolling_sent hc hl (transportWrite_answered_ok hc hb (State.ask_scripted ha))
  · exact hostSetPolling_notSent hc hl (transportWrite_answered_fail hc hb (State.ask_scripted ha))
  · have hask := State.ask_free (q := .portWrite x.2.2.2) ha
    cases hf : Config.freeAnswer s.draws with
    | ok => rw [hf] at hask; exact .inl (hostSetPolling_sent hc hl (transportWrite_answered_ok hc hb hask))
    | fail msg n =>
      rw [hf] at hask; exact .inr ⟨n, hostSetPolling_notSent hc hl (transportWrite_answered_fail hc hb hask)⟩

-- ### The commands that use the slot

/-- R164 to R166, R171: the commands that use the slot, each with its operation, command byte and parameters. -/
def slotCommands (s : State) (value : Int) (epc password payload : List Byte) : List (Instr × HostOp × Byte × List Byte) :=
  [(.hostSetRfPower value, .setRfPower, s.cfg.cmdSetRfPower, applyParamFn s.cfg.powerEncode value.toNat),
    (.hostGetRfPower, .getRfPower, s.cfg.cmdGetRfPower, []),
    (.hostWriteEpc epc, .writeEpc, s.cfg.cmdWriteEpc,
      s.password ++ [s.cfg.membankEpc, hi8 s.cfg.writeStartAddr.toNat, lo8 s.cfg.writeStartAddr.toNat, 0x00, 0x06] ++ epc),
    (.hostLockTag password payload, .lockTag, s.cfg.cmdLockTag, password ++ payload),
    (.hostSinglePoll, .singlePoll, s.cfg.cmdSinglePoll, [])]

/-- R164 to R166, R171: with good arguments each is `hostCommand` of its command frame. -/
theorem exec_slotCommand {s : State} {value : Int} {epc password payload : List Byte} (hv : 0 ≤ value ∧ value ≤ 30)
    (hlen : (applyParamFn s.cfg.powerEncode value.toNat).length ≤ 65535) (he : epc.length = 12) (hs : s.password.length = 4)
    (hw : password.length = 4) (hl : payload.length = 3) {x : Instr × HostOp × Byte × List Byte}
    (hx : x ∈ slotCommands s value epc password payload) :
    exec x.1 s = hostCommand x.2.1 x.2.2.1 (.ok (encodeFrameBytes .command x.2.2.1 x.2.2.2)) s := by
  simp only [slotCommands, List.mem_cons, List.not_mem_nil, or_false] at hx
  rcases hx with rfl | rfl | rfl | rfl | rfl
  · have hbuilt := (buildSetRfPower_eq (c := s.cfg) hv).trans (buildCommand_ok hlen)
    simp only [exec, execHostSetRfPower, hbuilt]
  · rfl
  · simp only [exec, execHostWriteEpc, buildWriteEpc_ok hs he]
  · simp only [exec, execHostLockTag, buildLockTag_ok hw hl]
  · rfl

/-- Settles O44: each is its `hostCommand` (`exec_slotCommand`), whose write is answered ok. -/
theorem hostCommandsSend : Obligations.HostCommandsSend := by
  intro s rest value epc password payload hc hb hp ha hv hlen he hs hw hl x hx
  rw [exec_slotCommand hv hlen he hs hw hl hx]
  exact hostCommand_sent hp (State.transportWrite_sends hc hb ha)

/-- Settles O46: the slot is looked at first (`hostCommand_occupied`), then the write decides, which outside Connected fails at
once. -/
theorem hostCommandsRejected : Obligations.HostCommandsRejected := by
  intro s value epc password payload hv hlen he hs hw hl x hx
  rw [exec_slotCommand hv hlen he hs hw hl hx]
  refine ⟨fun hp => hostCommand_occupied hp, fun hp hc => hostCommand_notSent hp (transportWrite_outside hc),
    fun hp hc hb => ⟨fun msg n rest ha => ?_, fun ha => ?_⟩⟩
  · exact hostCommand_notSent hp (transportWrite_answered_fail hc hb (State.ask_scripted ha))
  · have hask := State.ask_free (q := .portWrite (encodeFrameBytes .command x.2.2.1 x.2.2.2)) ha
    cases hf : Config.freeAnswer s.draws with
    | ok => rw [hf] at hask; exact .inl (hostCommand_sent hp (transportWrite_answered_ok hc hb hask))
    | fail msg n =>
      rw [hf] at hask; exact .inr ⟨n, hostCommand_notSent hp (transportWrite_answered_fail hc hb hask)⟩

/-- R191: where the builder reports an argument, the command fails with it before the slot and the link are looked at. -/
theorem hostCommand_argument {op : HostOp} {c : Byte} {built : Except ArgumentName (List Byte)} {which : ArgumentName}
    {s : State} (h : built = .error which) :
    ∃ text, hostCommand op c built s = .next { s with
      results := s.results ++ [.host op (.failure (.argument which text))], draws := s.draws + 1 } := by
  subst h; exact ⟨_, rfl⟩

/-- Settles O45: in each case the builder reports the argument, and that ends the command (`hostCommand_argument`). -/
theorem hostArgumentErrors : Obligations.HostArgumentErrors := fun _ _ _ _ _ =>
  ⟨fun hv => hostCommand_argument (buildSetRfPower_error hv),
    fun hs he => hostCommand_argument (buildWriteEpc_epc hs he),
    fun hw => hostCommand_argument (buildLockTag_password hw),
    fun hw hl => hostCommand_argument (buildLockTag_payload hw hl)⟩

-- ### The timers

theorem responseTimeout_pending {s : State} {w : Waiter} (hp : s.pending = some w) :
    s.responseTimeout = { s with pending := none, results := s.results ++ [.host w.op (.failure .timeout)] } := by
  unfold State.responseTimeout; rw [hp]; rfl

theorem verifyTimeout_waiting {s : State} {k : Nat} {v : Verify} (hv : s.verifies[k]? = some v) :
    s.verifyTimeout k = { s with
      verifies := s.verifies.eraseIdx k, results := s.results ++ [.host .verifyEpc (.verified v.expected false)] } := by
  unfold State.verifyTimeout; rw [hv]; rfl

/-- R232: with no frame to take, the next move is the next turn. -/
theorem nextMove_turn {s : State} {turn : Turn} {rest : List Turn} (hx : RxbufDrained s) (ha : s.agenda = turn :: rest) :
    s.nextMove = State.takeTurn turn { s with agenda := rest } := by
  simp only [State.nextMove, State.fetchFrame, show extractFrame s.rxbuf = none from hx, ha]

/-- Settles O47: `verify_epc` only waits, and a timer's turn (`nextMove_turn`) is its timeout. -/
theorem waitsAndTimers : Obligations.WaitsAndTimers := by
  refine fun s => ⟨fun _ _ => rfl, fun rest hx => ⟨fun w ha hp => ?_, fun k v ha hv => ?_⟩⟩
  · have hout := responseTimeout_pending (s := State.beginRun { s with agenda := rest }) hp
    simp only [step, nextMove_turn hx ha, State.takeTurn, hout]; rfl
  · have hout := verifyTimeout_waiting (s := State.beginRun { s with agenda := rest }) hv
    simp only [step, nextMove_turn hx ha, State.takeTurn, hout]; rfl

end Sys2Proof.Safety
end

section
/-! PROOFS. The family Exceptions: what decoding leaves alone whatever bytes arrive (R196), and which move a step makes when no
frame is in RXBUF (R198, R232, R233). -/

namespace Sys2Proof.Safety

open Sys2Proof.Machine

-- ### Decoding

/-- R196: the transport, the inputs still to come, polling, the password and the counter of free values are as before. -/
def decodingKeeps (s t : State) : Prop :=
  sameTransport s t ∧ sameInputs s t ∧ t.polling = s.polling ∧ t.password = s.password ∧ t.draws = s.draws

theorem decodingKeeps_refl (s : State) : decodingKeeps s s :=
  ⟨⟨rfl, rfl, rfl, rfl, rfl, rfl, rfl, rfl, rfl⟩, ⟨rfl, rfl, rfl⟩, rfl, rfl, rfl⟩

/-- R111, R193: a turn of the loop delivers a Frame, or discards bytes and nothing else. -/
theorem decodingKeeps_receiveOne {s a b : State} (h : a.receiveOne = some b) (hs : decodingKeeps s a) : decodingKeeps s b := by
  obtain ⟨candidate, rest, -, ⟨f, -, rfl⟩ | ⟨-, rfl⟩⟩ := State.receiveOne_some h
  · simpa [decodingKeeps, sameTransport, sameInputs] using hs
  · exact hs

/-- R106: so does the whole loop, and an overflow answers no state (R36). -/
theorem decodingKeeps_rxPush {bytes : List Byte} {s t : State} (h : exec (.rxPush bytes) s = .next t) : decodingKeeps s t := by
  by_cases hfits : chunkFits bytes s
  · cases (exec_rxPush_fits hfits).symm.trans h
    exact State.drain_induction (P := decodingKeeps s) (fun _ _ => decodingKeeps_receiveOne) _ _ (decodingKeeps_refl s)
  · cases (exec_rxPush_overflow hfits).symm.trans h

/-- R135: an inbound chunk is a push after its event on BYTE_OUT, or is not seen (log 22). -/
theorem decodingKeeps_envRxChunk {bytes : List Byte} {s t : State} (h : exec (.envRxChunk bytes) s = .next t) :
    decodingKeeps s t := by
  cases hr : s.readerActive with
  | true =>
    rw [exec_envRxChunk_attached hr] at h
    exact decodingKeeps_rxPush (s := { s with byteOut := s.byteOut ++ [bytes] }) h
  | false => cases (exec_envRxChunk_detached hr).symm.trans h; exact decodingKeeps_refl s

/-- Settles O40: every turn of the receive loop keeps it (`decodingKeeps_receiveOne`), and an inbound chunk is a push. -/
theorem decodingLeavesTransport : Obligations.DecodingLeavesTransport := fun _ _ _ h =>
  h.elim decodingKeeps_rxPush decodingKeeps_envRxChunk

-- ### Timers with nothing waiting, and the rest turn

/-- R195 (log 26). -/
theorem responseTimeout_idle {s : State} (hp : s.pending = none) : s.responseTimeout = s := by
  unfold State.responseTimeout; rw [hp]

/-- R195 (log 26). -/
theorem verifyTimeout_idle {s : State} {k : Nat} (hv : s.verifies[k]? = none) : s.verifyTimeout k = s := by
  unfold State.verifyTimeout; rw [hv]

/-- R231: an operation in progress goes on. -/
theorem restTurn_busy {s : State} (hb : s.busy ≠ none) : s.restTurn = blockStep s.beginRun :=
  if_pos (Option.isSome_iff_ne_none.2 hb)

/-- R195: else the pending command times out. -/
theorem restTurn_pending {s : State} {w : Waiter} (hb : s.busy = none) (hp : s.pending = some w) :
    s.restTurn = s.beginRun.responseTimeout := by
  simp [State.restTurn, hb, hp]

/-- R195: else the first waiting `verify_epc`. -/
theorem restTurn_verify {s : State} {v : Verify} {later : List Verify} (hb : s.busy = none) (hp : s.pending = none)
    (hv : s.verifies = v :: later) : s.restTurn = s.beginRun.verifyTimeout 0 := by
  simp [State.restTurn, hb, hp, hv]

/-- R233: else nothing moves. -/
theorem restTurn_idle {s : State} (hb : s.busy = none) (hp : s.pending = none) (hv : s.verifies = []) : s.restTurn = s := by
  simp [State.restTurn, hb, hp, hv]

-- ### The move a step makes with no frame in RXBUF

/-- R68, R232: a request that is no frame row runs, and is an event of the run. -/
theorem step_request {s : State} {i : Instr} {rest : List Turn} (hx : RxbufDrained s) (ha : s.agenda = .request i :: rest)
    (hf : isFrameRow s.cfg i = false) : step s = exec i (State.enterRun i { s with agenda := rest }) := by
  simp only [step, nextMove_turn hx ha, State.takeTurn, hf, Bool.false_eq_true, if_false]

/-- R68 (log 8). -/
theorem step_request_frameRow {s : State} {i : Instr} {rest : List Turn} (hx : RxbufDrained s)
    (ha : s.agenda = .request i :: rest) (hf : isFrameRow s.cfg i = true) : step s = .fault .frameOnOperationPort := by
  simp only [step, nextMove_turn hx ha, State.takeTurn, if_pos hf]

/-- R232. -/
theorem step_block {s : State} {rest : List Turn} (hx : RxbufDrained s) (ha : s.agenda = .block :: rest) :
    step s = .next (blockStep (State.beginRun { s with agenda := rest })) := by
  simp only [step, nextMove_turn hx ha, State.takeTurn]

/-- R195. -/
theorem step_responseTimeout {s : State} {rest : List Turn} (hx : RxbufDrained s) (ha : s.agenda = .responseTimeout :: rest) :
    step s = .next (State.responseTimeout (State.beginRun { s with agenda := rest })) := by
  simp only [step, nextMove_turn hx ha, State.takeTurn]

/-- R195. -/
theorem step_verifyTimeout {s : State} {k : Nat} {rest : List Turn} (hx : RxbufDrained s)
    (ha : s.agenda = .verifyTimeout k :: rest) :
    step s = .next (State.verifyTimeout k (State.beginRun { s with agenda := rest })) := by
  simp only [step, nextMove_turn hx ha, State.takeTurn]

/-- R231: with no turn left, whatever can still move by itself. -/
theorem step_restTurn {s : State} (hx : RxbufDrained s) (ha : s.agenda = []) : step s = .next s.restTurn := by
  simp only [step, State.nextMove, State.fetchFrame, show extractFrame s.rxbuf = none from hx, ha]

/-- Settles O49: each kind of turn by the lemma of its name; with no turn left, each case of the rest turn
(`step_restTurn`). -/
theorem stepRunsAgenda : Obligations.StepRunsAgenda := by
  intro s hx
  refine ⟨fun i rest ha hf hi => ?_, fun rest ha => ?_, fun i rest => step_request_frameRow hx, fun rest => step_block hx,
    fun rest ha hp => ?_, fun k rest ha hv => ?_, fun ha hb => ?_, fun w ha hb hp => ?_, fun v later ha hb hp hv => ?_,
    fun ha hb hp hv => ?_⟩
  · rw [step_request hx ha hf, State.enterRun_other hi]; rfl
  · rw [step_request hx ha rfl, State.enterRun_reset]
  · exact (step_responseTimeout hx ha).trans (congrArg _ (responseTimeout_idle hp))
  · exact (step_verifyTimeout hx ha).trans (congrArg _ (verifyTimeout_idle hv))
  · exact (step_restTurn hx ha).trans (congrArg _ (restTurn_busy hb))
  · rw [step_restTurn hx ha, restTurn_pending hb hp, responseTimeout_pending (s := s.beginRun) hp]; rfl
  · have h0 : s.beginRun.verifies[0]? = some v := by simp [hv]
    rw [step_restTurn hx ha, restTurn_verify hb hp hv, verifyTimeout_waiting h0]
    simp [hv, State.beginRun]
  · rw [step_restTurn hx ha, restTurn_idle hb hp hv]

end Sys2Proof.Safety
end

section
/-! PROOFS. The family Reset and hazards: power is removed before the port is closed (R223). -/

namespace Sys2Proof.Safety

open Sys2Proof.Machine

/-- R136: under deassert and keep, a hardware error that closes the port also deasserts EN. -/
theorem errorLine_of_closes {p : HwerrEnPolicy} {s : State} (hp : p ≠ .any) (hs : s.portOpen = true)
    (hc : errorPortOpen p s = false) : errorLine p s = .deasserted := by
  cases p with
  | deassert => rfl
  | keep => exact absurd (hs.symm.trans hc) nofun
  | any => exact absurd rfl hp

/-- R131 to R136: what closes the port. -/
inductive PortClose (s t : State) : Prop
  /-- D4 -/
  | d4 (hb : s.busy = some .d4) (he : t.en = s.en)
  /-- F1 -/
  | f1 (hc : t.conn.status = .error) (he : t.en = .deasserted)
  /-- R136 -/
  | hwError (hc : t.conn.status = .error) (he : t.en = errorLine s.cfg.hwerrEnPolicy s)
      (hp : errorPortOpen s.cfg.hwerrEnPolicy s = false)

theorem step_portClose {s t : State} (h : step s = .next t) (hs : s.portOpen = true) (ht : t.portOpen = false) :
    PortClose s t := by
  have hmoved : t.portOpen ≠ s.portOpen := by simp [hs, ht]
  cases step_transportMove h with
  | still h => obtain ⟨-, -, hkept, -⟩ := h; exact absurd hkept hmoved
  | begins _ _ _ _ _ hkept => exact absurd hkept hmoved
  | ends _ _ _ _ _ hkept => exact absurd hkept hmoved
  | hwError _ _ _ hc he hport => exact .hwError hc he (hport.symm.trans ht)
  | poweredOn hp =>
    obtain ⟨-, -, hoff, -⟩ := State.atPowerOn_link hp
    exact absurd (ht.trans hoff.symm) hmoved
  | failing _ _ _ _ _ _ hkept => exact absurd hkept hmoved
  | f1 _ _ hc he => exact .f1 hc.1 he
  | k2 _ _ _ hopen => exact absurd (hopen.trans hs.symm) hmoved
  | k3 _ _ _ hkept => exact absurd hkept hmoved
  | waits _ _ _ hkept => exact absurd hkept hmoved
  | k5 _ _ _ hkept => exact absurd hkept hmoved
  | d4 hb _ he => exact .d4 hb he
  | d5 _ _ _ hkept => exact absurd hkept hmoved

/-- Settles O56: the port is closed by D4, where EN is deasserted since D1 (`TransportInv.en_after_d1`), by F1, or by a hardware
error (`PortClose`), and the latter two enter Error with EN deasserted. -/
theorem powerDownBeforePortClose : Obligations.PowerDownBeforePortClose := by
  intro s t hi hp h hs ht
  cases step_portClose h hs ht with
  | d4 hb he =>
    have hoff : s.en = .deasserted := hi.en_after_d1 (by rw [hb]; rfl)
    exact ⟨he.trans hoff, .inl hoff⟩
  | f1 hc he => exact ⟨he, .inr hc⟩
  | hwError hc he hclosed => exact ⟨he.trans (errorLine_of_closes hp hs hclosed), .inr hc⟩

end Sys2Proof.Safety
end
